-- ==== Sys2Proof/Word.lean ====
section
/-! DEFINITION. The widths of the block's values (00_scope.md R4): 8-bit port reads, divisors and cache, 6-bit snapshots,
3-bit selector codes. Bit 0 is the least significant bit of every value (00_scope.md section 6). -/

namespace Sys2Proof

/-- One byte: a read of the input port (`PORT_W`), a divisor (`DIV_W`), the cache (`PREV_W`); 00_scope.md R4. -/
abbrev Byte := BitVec 8

/-- One input snapshot, the low six bits of a port read (`SNAP_W`); 10_state.md R11. -/
abbrev Snap := BitVec 6

/-- One selector code (`CODE_W`), unsigned, 0 to 7; 10_state.md R12. -/
abbrev Code := BitVec 3

end Sys2Proof
end

