-- ==== Sys2Proof/Syntax.lean ====
section
/-! DEFINITION. The names of the block: the sixteen rows of spec/opcode_table.json, the two channels, the two states and
three positions of the state machine, its five operations, the observable events, what the environment may do between
two operations, and the items of a stimulus trace. -/

namespace Sys2Proof

/-- The two output paths (00_scope.md glossary, "Channel"). -/
inductive Channel where
  | a
  | b
deriving DecidableEq, Repr

/-- The two states of the state machine (10_state.md R13). -/
inductive Fsm where
  | idle
  | applying
deriving DecidableEq, Repr

/-- The position inside APPLYING (10_state.md R14): channel A's write, channel B's write or the cache update is next. -/
inductive Phase where
  | wa
  | wb
  | cm
deriving DecidableEq, Repr, Inhabited

/-- The five operations of the block (41_poll_apply.md section 1; RESET is 70_reset_and_hazards.md R120). -/
inductive Op where
  | poll
  | writeA
  | writeB
  | commit
  | reset
deriving DecidableEq, Repr

/-- The three kinds of observable event (00_scope.md R6): `rd v` is Rd(PIN, v), `wr .a d` is Wr(OCRA, d), `wr .b d` is
Wr(OCRB, d). -/
inductive Event where
  | rd (v : Byte)
  | wr (x : Channel) (d : Byte)
deriving DecidableEq, Repr

/-- The three locations of the I/O space (20_memory.md R30), as handles (R31, decision D5). -/
inductive IoLoc where
  | pin
  | ocra
  | ocrb
deriving DecidableEq, Repr

/-- What stands outside the block at the moment an operation would start: the reset source fires (70_reset_and_hazards.md
R122), or it does not and the pins present the byte `v` (10_state.md R17). -/
inductive EnvSlot where
  | reset
  | pins (v : Byte)
deriving DecidableEq, Repr, Inhabited

/-- The instructions: selector code `c` on channel A or B (30_encoding.md R55, decision D30), one constructor per row of
spec/opcode_table.json, in the table's order. None has an operand (40_divisor_table.md R66). -/
inductive Instr where
  | aRate4800
  | aRate9600
  | aRate19200
  | aRate38400
  | aRate57600
  | aRate115200
  | aDef6
  | aDef7
  | bRate4800
  | bRate9600
  | bRate19200
  | bRate38400
  | bRate57600
  | bRate115200
  | bDef6
  | bDef7
deriving DecidableEq, Repr

/-- The two instructions one port byte carries, channel A's and channel B's (30_encoding.md R56). -/
structure Word8 where
  onA : Instr
  onB : Instr
deriving DecidableEq, Repr

/-- An item of a stimulus trace (30_encoding.md R60): `PIN v`, `RESET`, or `RESET.WA`, `RESET.WB`, `RESET.CM`. -/
inductive TraceItem where
  | pin (v : Byte)
  | reset
  | resetAt (p : Phase)
deriving DecidableEq, Repr

/-- A written line of a stimulus trace (30_encoding.md R61): an item, or a pseudo-item `SEL a, b`, `SEL rateA, rateB`,
`HOLD n`. -/
inductive TraceLine where
  | item (i : TraceItem)
  | sel (a b : Nat)
  | selRate (rateA rateB : Nat)
  | hold (n : Nat)
deriving DecidableEq, Repr

end Sys2Proof
end

