-- ==== Sys2Proof/Config.lean ====
section
/-! DEFINITION. The parameters of 00_scope.md R4: those the spec fixes, as numbers, and those it leaves OPEN, as opaque
constants that nothing in Lean can evaluate. The open values that a run draws afresh are opaque functions of the plain
counter `State.draws` (notes/assumptions 1 to 4, 11). -/

namespace Sys2Proof.Config

/-- `SEL_MASK` (00_scope.md R4, 30_encoding.md R51). -/
def selMask : Byte := 0x3F

/-- `PREV_RESET` (00_scope.md R4, 10_state.md R10). -/
def prevReset : Byte := 0x00

/-- `DIV_DEFAULT`, the divisor of every code outside 0 to 5 (00_scope.md R4, 40_divisor_table.md R65). -/
def divDefault : Byte := 11

/-- FREE VALUE. `OCRA_RESET`: what channel A's compare register holds after the `n`-th draw (70_reset_and_hazards.md
R120, R121, decision D9). DESIGN CHOICE in form; safe for one run, unsafe where two are compared: log 1. -/
opaque ocraReset : Nat → Byte

/-- FREE VALUE. `OCRB_RESET`, independent of `OCRA_RESET` (70_reset_and_hazards.md R120, R121, decision D9). DESIGN
CHOICE in form; safe for one run, unsafe where two are compared: log 1. -/
opaque ocrbReset : Nat → Byte

/-- FREE VALUE. `SNAP` after a reset: "unspecified, never read before written" (70_reset_and_hazards.md R121). DESIGN
CHOICE in form; safe for one run, unsafe where two are compared: log 2. -/
opaque snapReset : Nat → Snap

/-- FREE VALUE. `PHASE` after a reset: "unspecified, never read before written" (70_reset_and_hazards.md R121). DESIGN
CHOICE in form; safe for one run, unsafe where two are compared: log 2. -/
opaque phaseReset : Nat → Phase

/-- FREE VALUE. What the pins present before the first operation (10_state.md R17: PIN follows the pins). DESIGN CHOICE
in form, safe: log 4. -/
opaque pinStart : Byte

/-- FREE VALUE. The byte the pins present at the `n`-th operation when nothing is scheduled and no reset fires (00_scope.md
R5: with no law). DESIGN CHOICE in form, safe: log 3. -/
opaque pinDraw : Nat → Byte

/-- FREE VALUE. How many resets fire before the `i`-th operation of the block where nothing is scheduled: any finite
number (70_reset_and_hazards.md R122: at any time, any number of times; 41_poll_apply.md R93: the block keeps
taking operations). DESIGN CHOICE in form, safe: log 3. -/
opaque resetGap : Nat → Nat

/-- FREE VALUE. How many clock cycles beyond one a POLL takes (70_reset_and_hazards.md R140, decision D1; log 11). -/
opaque tPollExtra : Nat

/-- FREE VALUE. How many clock cycles beyond one a WRITE_A takes (70_reset_and_hazards.md R140; log 11). -/
opaque tWaExtra : Nat

/-- FREE VALUE. How many clock cycles beyond one a WRITE_B takes (70_reset_and_hazards.md R140; log 11). -/
opaque tWbExtra : Nat

/-- FREE VALUE. How many clock cycles beyond one a COMMIT takes (70_reset_and_hazards.md R140; log 11). -/
opaque tCmExtra : Nat

/-- `T_POLL`, at least one cycle, non-normative (70_reset_and_hazards.md R140). -/
def tPoll : Nat := 1 + tPollExtra

/-- `T_WA`, at least one cycle, non-normative (70_reset_and_hazards.md R140). -/
def tWa : Nat := 1 + tWaExtra

/-- `T_WB`, at least one cycle, non-normative (70_reset_and_hazards.md R140). -/
def tWb : Nat := 1 + tWbExtra

/-- `T_CM`, at least one cycle, non-normative (70_reset_and_hazards.md R140). -/
def tCm : Nat := 1 + tCmExtra

end Sys2Proof.Config
end

