-- ==== Sys2Proof/WellFormed.lean ====
section
/-! DEFINITION. Which terms of the syntax are well formed: an instruction's code lies in its 3-bit field, a word carries
channel A's instruction first and channel B's second (30_encoding.md R56), and each line of a stimulus trace meets the
conditions of 30_encoding.md R60 and R61. -/

namespace Sys2Proof

/-- The channel an instruction belongs to (30_encoding.md R55: `A.` or `B.`). -/
def Instr.channel : Instr → Channel
  | .aRate4800 => .a
  | .aRate9600 => .a
  | .aRate19200 => .a
  | .aRate38400 => .a
  | .aRate57600 => .a
  | .aRate115200 => .a
  | .aDef6 => .a
  | .aDef7 => .a
  | .bRate4800 => .b
  | .bRate9600 => .b
  | .bRate19200 => .b
  | .bRate38400 => .b
  | .bRate57600 => .b
  | .bRate115200 => .b
  | .bDef6 => .b
  | .bDef7 => .b

/-- A word is well formed when its first instruction is channel A's and its second channel B's (30_encoding.md R56). An
instruction alone has no operand and is always well formed. -/
def Word8.wf (w : Word8) : Bool :=
  w.onA.channel == .a && w.onB.channel == .b

/-- The code of a rate name (30_encoding.md R55, R61); the six names of R61 and no other. -/
def rateCode (rate : Nat) : Option Nat :=
  if rate = 4800 then some 0
  else if rate = 9600 then some 1
  else if rate = 19200 then some 2
  else if rate = 38400 then some 3
  else if rate = 57600 then some 4
  else if rate = 115200 then some 5
  else none

/-- The condition of 30_encoding.md R61 on one line; `afterPin` says whether a `PIN` or `SEL` item precedes it. -/
def TraceLine.wf (afterPin : Bool) : TraceLine → Bool
  | .item _ => true
  | .sel a b => decide (a ≤ 7) && decide (b ≤ 7)
  | .selRate ra rb => (rateCode ra).isSome && (rateCode rb).isSome
  | .hold _ => afterPin

/-- Whether a line is a `PIN` or `SEL` item, one that a later `HOLD` may repeat (30_encoding.md R61). -/
def TraceLine.isPin : TraceLine → Bool
  | .item (.pin _) => true
  | .item _ => false
  | .sel _ _ => true
  | .selRate _ _ => true
  | .hold _ => false

/-- Every line of a written trace meets its condition (30_encoding.md R61). -/
def linesWf (afterPin : Bool) : List TraceLine → Bool
  | [] => true
  | l :: rest => l.wf afterPin && linesWf (afterPin || l.isPin) rest

/-- The condition of 30_encoding.md R60 on a trace: `RESET.WA`, `RESET.WB`, `RESET.CM` stand only right after a `PIN`
item whose snapshot differed from PREV. `prev` is PREV before the trace; it is 0 after a reset (70_reset_and_hazards.md
R120) and the last snapshot applied otherwise (41_poll_apply.md R83). -/
def traceLegal (prev : Byte) : List TraceItem → Bool
  | [] => true
  | .reset :: rest => traceLegal Config.prevReset rest
  | .resetAt _ :: _ => false
  | .pin v :: .resetAt _ :: rest => (v &&& Config.selMask) != prev && traceLegal Config.prevReset rest
  | .pin v :: rest => traceLegal (v &&& Config.selMask) rest

end Sys2Proof
end

