-- ==== Sys2Proof/Decode.lean ====
section
/-! DEFINITION. Encodings (30_encoding.md): the mask and the two fields of a port byte, the decoder (total: every byte
carries one instruction for each channel, R56), and after it the encoder, written from the rows' match and mask
(R55, spec/opcode_table.json). -/

namespace Sys2Proof

/-- The snapshot of a port read: its low six bits (30_encoding.md R51). -/
def snapshot (v : Byte) : Snap := v.extractLsb' 0 6

/-- A snapshot as the 8-bit value the cache holds (41_poll_apply.md R80, R83: `zext_8`). -/
def zext8 (s : Snap) : Byte := s.setWidth 8

/-- A channel's selector code in a snapshot: bits 2:0 for A, bits 5:3 for B (30_encoding.md R52). -/
def codeOf (x : Channel) (s : Snap) : Code :=
  match x with
  | .a => s.extractLsb' 0 3
  | .b => s.extractLsb' 3 3

/-- Channel A's row of a code (30_encoding.md R55). -/
def rowA (c : Code) : Instr :=
  match c.toNat with
  | 0 => .aRate4800
  | 1 => .aRate9600
  | 2 => .aRate19200
  | 3 => .aRate38400
  | 4 => .aRate57600
  | 5 => .aRate115200
  | 6 => .aDef6
  | _ => .aDef7

/-- Channel B's row of a code (30_encoding.md R55). -/
def rowB (c : Code) : Instr :=
  match c.toNat with
  | 0 => .bRate4800
  | 1 => .bRate9600
  | 2 => .bRate19200
  | 3 => .bRate38400
  | 4 => .bRate57600
  | 5 => .bRate115200
  | 6 => .bDef6
  | _ => .bDef7

/-- The instruction a snapshot commands on a channel (30_encoding.md R52, R55). -/
def decodeOn (x : Channel) (s : Snap) : Instr :=
  match x with
  | .a => rowA (codeOf .a s)
  | .b => rowB (codeOf .b s)

/-- Both instructions of a port byte (30_encoding.md R56: one word commands both channels). -/
def decode (v : Byte) : Word8 :=
  { onA := decodeOn .a (snapshot v), onB := decodeOn .b (snapshot v) }

/-- Why no word can be decoded: there is no byte. Every byte there is decodes (30_encoding.md R56). -/
inductive DecodeError where
  /-- Raised by `decodeFirst` on an empty list of bytes; safe, the block itself never reads fewer than one byte. -/
  | noByte
deriving DecidableEq, Repr

/-- Decode the first byte of a list; the input word's length is one byte, fixed (30_encoding.md R50). -/
def decodeFirst : List Byte → Except DecodeError (Word8 × List Byte)
  | [] => .error .noByte
  | v :: rest => .ok (decode v, rest)

/-- Decode a trace's byte string (30_encoding.md R60, "encoding"), byte by byte. -/
def decodeAll (vs : List Byte) : List Word8 := vs.map decode

/-- An instruction's selector code, the row number of 30_encoding.md R55. -/
def Instr.code : Instr → Code
  | .aRate4800 => 0
  | .aRate9600 => 1
  | .aRate19200 => 2
  | .aRate38400 => 3
  | .aRate57600 => 4
  | .aRate115200 => 5
  | .aDef6 => 6
  | .aDef7 => 7
  | .bRate4800 => 0
  | .bRate9600 => 1
  | .bRate19200 => 2
  | .bRate38400 => 3
  | .bRate57600 => 4
  | .bRate115200 => 5
  | .bDef6 => 6
  | .bDef7 => 7

/-- The bits a row looks at: `0x07` for channel A, `0x38` for channel B (30_encoding.md R55). -/
def Instr.maskBits (i : Instr) : Byte :=
  match i.channel with
  | .a => 0x07
  | .b => 0x38

/-- The value those bits have in a word of the row (40_divisor_table.md R66 to R73, "match"). -/
def Instr.matchBits : Instr → Byte
  | .aRate4800 => 0x00
  | .aRate9600 => 0x01
  | .aRate19200 => 0x02
  | .aRate38400 => 0x03
  | .aRate57600 => 0x04
  | .aRate115200 => 0x05
  | .aDef6 => 0x06
  | .aDef7 => 0x07
  | .bRate4800 => 0x00
  | .bRate9600 => 0x08
  | .bRate19200 => 0x10
  | .bRate38400 => 0x18
  | .bRate57600 => 0x20
  | .bRate115200 => 0x28
  | .bDef6 => 0x30
  | .bDef7 => 0x38

/-- Whether a byte is a word of an instruction's row: `v & mask = match` (30_encoding.md R55, R56). -/
def Instr.matchesWord (i : Instr) (v : Byte) : Bool :=
  v &&& i.maskBits == i.matchBits

/-- A word of an instruction: the row's match bits in the row's field, the other bits (the other channel's field and bits
7:6, which the instruction does not fix) taken from `rest` (30_encoding.md R50, R55). -/
def encode (i : Instr) (rest : Byte) : Byte :=
  (rest &&& ~~~ i.maskBits) ||| i.matchBits

/-- The byte that carries two instructions: bits 7:6 `u`, channel B's code in bits 5:3, channel A's in bits 2:0
(30_encoding.md R50, R52). -/
def encodeWord (u : BitVec 2) (w : Word8) : Byte := u ++ w.onB.code ++ w.onA.code

/-- The byte string that carries a list of words, each with its own bits 7:6 (30_encoding.md R60, "encoding"). -/
def encodeAll (ws : List (BitVec 2 × Word8)) : List Byte := ws.map fun p => encodeWord p.1 p.2

/-- Which of a byte's two instructions stands for it where ONE is asked for: channel B's if only channel B's field is not
zero, else channel A's, whose write comes first (41_poll_apply.md R90). DESIGN CHOICE, log 7: a row's word with zeros
in the bits the row leaves free is then read as that row, but for `B.RATE4800`, whose word 0x00 is `A.RATE4800`'s too. -/
def tableChannel (v : Byte) : Channel :=
  if codeOf .a (snapshot v) = 0 ∧ codeOf .b (snapshot v) ≠ 0 then .b else .a

/-- The instruction read from a table word of `nbits` bits: one byte (30_encoding.md R50), read by the decoder on the
channel `tableChannel` names (log 7). -/
def decodeTableWord (nbits w : Nat) : Option Instr :=
  if nbits = 8 ∧ w < 256 then
    some (decodeOn (tableChannel (BitVec.ofNat 8 w)) (snapshot (BitVec.ofNat 8 w)))
  else none

end Sys2Proof
end

