-- ==== Sys2Proof/Machine/State.lean ====
section
/-! DEFINITION. The state of the block (10_state.md), the reasons a step can stop (there are none: 60_exceptions.md R100)
and the state right after reset (70_reset_and_hazards.md R120, R121). -/

namespace Sys2Proof.Machine

/-- The faults of the block. There is none: "A model's step function for the block never returns a fault"
(60_exceptions.md R100), so the type has no constructor and nobody can raise one; safe. -/
inductive Fault where
deriving DecidableEq, Repr

/-- The refusals of the model. -/
inductive Refusal where
  /-- An instruction that has no meaning yet, by its mnemonic. Raised by no arm of `exec` now: every row of the table
  has its meaning. Safe. -/
  | notModelled (mnemonic : String)
deriving DecidableEq, Repr

/-- The state: the block's own four registers, the three boundary registers, the observable events so far, and the
model's own two fields for what stands outside the block. -/
structure State where
  /-- PREV, the Previous-Selection Cache (10_state.md R10). -/
  prev : Byte
  /-- SNAP, the latched Input Snapshot (10_state.md R11). -/
  snap : Snap
  /-- FSM, the state of the state machine (10_state.md R13). -/
  fsm : Fsm
  /-- PHASE, the position inside APPLYING; it has no meaning while FSM is IDLE (10_state.md R14). -/
  phase : Phase
  /-- PIN, the byte the pins presented last (10_state.md R17). -/
  pin : Byte
  /-- OCRA, channel A's compare register (10_state.md R18). -/
  ocra : Byte
  /-- OCRB, channel B's compare register (10_state.md R19). -/
  ocrb : Byte
  /-- The events the block has performed, oldest first (00_scope.md R6). The model's own field: log 5. -/
  events : List Event
  /-- What the pins environment and the reset source do at the coming operations, one slot an operation (00_scope.md
  R5, 30_encoding.md R62). The model's own field: log 3. -/
  env : List EnvSlot
  /-- How many operations have started: what makes each free value a fresh draw. The model's own field: log 3. -/
  draws : Nat
deriving DecidableEq, Repr

/-- The machine right after reset (70_reset_and_hazards.md R121): PREV 0, FSM IDLE; SNAP, PHASE, PIN, OCRA and OCRB hold
free values (logs 1, 2, 4); no event has happened and nothing is scheduled (logs 3, 5). -/
def State.reset : State where
  prev := Config.prevReset
  snap := Config.snapReset 0
  fsm := .idle
  phase := Config.phaseReset 0
  pin := Config.pinStart
  ocra := Config.ocraReset 0
  ocrb := Config.ocrbReset 0
  events := []
  env := []
  draws := 0

end Sys2Proof.Machine
end

