-- ==== Sys2Proof/Machine/DivisorTable.lean ====
section
/-! DEFINITION. The Divisor Table (40_divisor_table.md): the one constant function of the block, and the two informative
columns of its table, the rate name and the mode, which are no output of the block (R75). -/

namespace Sys2Proof.Machine

/-- DIV, total on all integers (40_divisor_table.md R65, decision D24). -/
def div (c : Int) : Byte :=
  if c = 0 then 23
  else if c = 1 then 11
  else if c = 2 then 5
  else if c = 3 then 2
  else if c = 4 then 1
  else if c = 5 then 15
  else Config.divDefault

/-- DIV at a 3-bit selector code, the only arguments the hardware can give it (40_divisor_table.md R65). -/
def divCode (c : Code) : Byte := div c.toNat

/-- The rate name of a code; codes 6 and 7 have none (30_encoding.md R55). Informative. -/
def rateName (c : Code) : Option Nat :=
  match c.toNat with
  | 0 => some 4800
  | 1 => some 9600
  | 2 => some 19200
  | 3 => some 38400
  | 4 => some 57600
  | 5 => some 115200
  | _ => none

/-- The mode column: how many times the rate name the output clock is (40_divisor_table.md R75). Informative. -/
def rateMode (c : Code) : Nat :=
  match c.toNat with
  | 5 => 1
  | _ => 16

end Sys2Proof.Machine
end

