-- ==== Sys2Proof/Machine/Flags.lean ====
section
/-! DEFINITION. The one predicate the block computes (10_state.md R16). It stores no flag. -/

namespace Sys2Proof.Machine

/-- CHANGED: the snapshot differs from PREV, compared as 8-bit values (10_state.md R16). -/
def changed (s : Snap) (prev : Byte) : Bool := zext8 s != prev

end Sys2Proof.Machine
end

