-- ==== Sys2Proof/Machine/Operands.lean ====
section
/-! DEFINITION. What the operations read: a channel's code and divisor as functions of the latched snapshot (10_state.md
R12: neither is stored), the compare register of a channel, the bytes of the I/O space, and the 2-bit view of the state
register (10_state.md R15). -/

namespace Sys2Proof.Machine

/-- CODE_A or CODE_B of the latched snapshot (10_state.md R12). -/
def State.code (x : Channel) (s : State) : Code := codeOf x s.snap

/-- The Divisor Value of a channel, recomputed from SNAP (10_state.md R12). -/
def State.divisor (x : Channel) (s : State) : Byte := divCode (s.code x)

/-- `OCR[A]`, `OCR[B]` (00_scope.md section 6). No operation of the block reads it (10_state.md R18). -/
def State.ocr (x : Channel) (s : State) : Byte :=
  match x with
  | .a => s.ocra
  | .b => s.ocrb

/-- The byte at a location of the I/O space (20_memory.md R30), as an observer outside the block finds it. -/
def State.ioByte (l : IoLoc) (s : State) : Byte :=
  match l with
  | .pin => s.pin
  | .ocra => s.ocra
  | .ocrb => s.ocrb

/-- A channel's own location (20_memory.md R30, 10_state.md R20). -/
def ocrLoc (x : Channel) : IoLoc :=
  match x with
  | .a => .ocra
  | .b => .ocrb

/-- The position of APPLYING in which a channel's write is next (10_state.md R14). -/
def writePhase (x : Channel) : Phase :=
  match x with
  | .a => .wa
  | .b => .wb

/-- The position after a channel's write (10_state.md R14: WA to WB, WB to CM). -/
def afterWrite (x : Channel) : Phase :=
  match x with
  | .a => .wb
  | .b => .cm

/-- The fused 2-bit state register of 10_state.md R15: 0 IDLE, 1 WA, 2 WB, 3 CM. DESIGN CHOICE of the spec, a view
only: log 14. -/
def stCode (f : Fsm) (p : Phase) : BitVec 2 :=
  match f with
  | .idle => 0
  | .applying =>
    match p with
    | .wa => 1
    | .wb => 2
    | .cm => 3

/-- The state and position a 2-bit code stands for (10_state.md R15): all four codes are used, none is spare. The phase
given with code 0 has no meaning. -/
def ofStCode (c : BitVec 2) : Fsm × Phase :=
  match c.toNat with
  | 0 => (.idle, .wa)
  | 1 => (.applying, .wa)
  | 2 => (.applying, .wb)
  | _ => (.applying, .cm)

/-- What an observer outside the block can know (00_scope.md R6): the event sequence and the two compare registers. -/
def State.observe (s : State) : List Event × Byte × Byte := (s.events, s.ocra, s.ocrb)

end Sys2Proof.Machine
end

