-- ==== Sys2Proof/Machine/Ops.lean ====
section
/-! DEFINITION. The operations of the block over its state: the two kinds of access (20_memory.md R33), POLL, WRITE_X and
COMMIT (41_poll_apply.md R80 to R83), and RESET (70_reset_and_hazards.md R120), which is the only entry of any kind:
the block takes no exception and returns from none (60_exceptions.md R100, R105, R106). -/

namespace Sys2Proof.Machine

/-- Where the environment stands at the `n`-th unscheduled slot: which operation of the block comes next, and how many
resets still fire before it (log 3). -/
def freeGap : Nat → Nat × Nat
  | 0 => (0, Config.resetGap 0)
  | n + 1 =>
    match freeGap n with
    | (i, 0) => (i + 1, Config.resetGap (i + 1))
    | (i, r + 1) => (i, r)

/-- What the environment does at the `n`-th unscheduled slot: a reset while one is still to fire, else the pins present a
free byte. Any number of resets may stand in a row, but never endlessly many: this is the weak fairness that
41_poll_apply.md R93 and decision D22 tell a model to assume (logs 3, 15). -/
def freeSlot (n : Nat) : EnvSlot :=
  match (freeGap n).2 with
  | 0 => .pins (Config.pinDraw n)
  | _ + 1 => .reset

/-- What the environment does at the coming operation: the next scheduled slot, or a free one when none is scheduled
(00_scope.md R5; log 3). -/
def State.nextSlot (s : State) : EnvSlot :=
  match s.env with
  | [] => freeSlot s.draws
  | e :: _ => e

/-- The byte PIN holds once the environment has done `e`: a reset moves no pin (10_state.md R17; log 4). -/
def pinAfter (e : EnvSlot) (old : Byte) : Byte :=
  match e with
  | .reset => old
  | .pins v => v

/-- The environment moves: PIN follows the pins, the slot is used up and the draw counter goes on (logs 3, 4). It changes
no register of the block. -/
def State.tick (s : State) : State :=
  { s with pin := pinAfter s.nextSlot s.pin, env := s.env.tail, draws := s.draws + 1 }

/-- Append an observable event (00_scope.md R6). -/
def State.emit (e : Event) (s : State) : State := { s with events := s.events ++ [e] }

/-- `MemRead(ADDR_PIN, 1)`: the state after the read, which only has its event; the value read is `s.pin`. A read has no
side effect on the pins (20_memory.md R33, R35). -/
def memReadPin (s : State) : State := s.emit (.rd s.pin)

/-- `MemWrite(ADDR_OCRX, 1, d)`: all eight bits of one compare register at once, and its event; the other register keeps
every bit (20_memory.md R33, R38; 10_state.md R20). -/
def memWriteOcr (x : Channel) (d : Byte) (s : State) : State :=
  match x with
  | .a => { s with ocra := d, events := s.events ++ [.wr .a d] }
  | .b => { s with ocrb := d, events := s.events ++ [.wr .b d] }

/-- POLL (41_poll_apply.md R80): read PIN; on a change latch the snapshot and enter APPLYING at WA. -/
def poll (s : State) : State :=
  if changed (snapshot s.pin) s.prev then
    { memReadPin s with snap := snapshot s.pin, fsm := .applying, phase := .wa }
  else memReadPin s

/-- WRITE_A and WRITE_B (41_poll_apply.md R81, R82) with the divisor `d`: the one write, then PHASE moves on. -/
def writeChannel (x : Channel) (d : Byte) (s : State) : State :=
  { memWriteOcr x d s with phase := afterWrite x }

/-- COMMIT (41_poll_apply.md R83): PREV takes the latched snapshot, FSM goes back to IDLE; no event. -/
def commit (s : State) : State := { s with prev := zext8 s.snap, fsm := .idle }

/-- RESET (70_reset_and_hazards.md R120): PREV 0, FSM IDLE; PHASE and SNAP unspecified, OCRA and OCRB fresh draws (free
values, logs 1, 2); the events already performed stay (decision D11), PIN follows the pins (R121). -/
def takeReset (s : State) : State :=
  { s with
    prev := Config.prevReset
    fsm := .idle
    phase := Config.phaseReset s.draws
    snap := Config.snapReset s.draws
    ocra := Config.ocraReset s.draws
    ocrb := Config.ocrbReset s.draws }

/-- Selector code `c` on channel `x` is APPLIED (40_divisor_table.md, before section 1): it stands in the channel's field
of the latched snapshot and WRITE_X is the enabled operation (41_poll_apply.md R81, R82). -/
def applied (x : Channel) (c : Code) (s : State) : Bool :=
  s.fsm == .applying && s.phase == writePhase x && s.code x == c

/-- The effect of selector code `c` on channel `x`: when applied, WRITE_X with the table's divisor (40_divisor_table.md
R66 to R73); otherwise the word is decoded to nothing at all (30_encoding.md R57; log 6). -/
def applyCode (x : Channel) (c : Code) (s : State) : State :=
  if applied x c s then writeChannel x (divCode c) s else s

/-- The operation FSM and PHASE name (41_poll_apply.md R85, R92); never RESET, which the environment brings. -/
def selectedOp (s : State) : Op :=
  match s.fsm with
  | .idle => .poll
  | .applying =>
    match s.phase with
    | .wa => .writeA
    | .wb => .writeB
    | .cm => .commit

/-- The operation a step performs: RESET where the reset source fires, which wins (60_exceptions.md R104), else the one FSM
and PHASE name. -/
def performedOp (s : State) : Op :=
  match s.nextSlot with
  | .reset => .reset
  | .pins _ => selectedOp s

/-- Whether an operation is enabled (41_poll_apply.md R80 to R83, R92; 70_reset_and_hazards.md R120: RESET always). -/
def enabled (o : Op) (s : State) : Bool :=
  match o with
  | .poll => s.fsm == .idle
  | .writeA => s.fsm == .applying && s.phase == .wa
  | .writeB => s.fsm == .applying && s.phase == .wb
  | .commit => s.fsm == .applying && s.phase == .cm
  | .reset => true

/-- The clock cycles an operation takes, non-normative (70_reset_and_hazards.md R140; log 11). RESET's are not given; an
event between operations is counted as none. -/
def opCycles (o : Op) : Nat :=
  match o with
  | .poll => Config.tPoll
  | .writeA => Config.tWa
  | .writeB => Config.tWb
  | .commit => Config.tCm
  | .reset => 0

end Sys2Proof.Machine
end

