-- ==== Sys2Proof/Machine/ChannelA.lean ====
section
/-! DEFINITION. The meanings of channel A's eight selector codes (40_divisor_table.md R66 to R73): when applied, WRITE_A
(41_poll_apply.md R81) loads OCRA with the code's divisor. -/

namespace Sys2Proof.Machine

/-- `A.RATE4800` (40_divisor_table.md R66): code 0 on channel A; when applied, Wr(OCRA, 23). -/
def execARate4800 (s : State) : Host.Outcome State Fault Refusal := .next (applyCode .a 0 s)

/-- `A.RATE9600` (40_divisor_table.md R67): code 1 on channel A; when applied, Wr(OCRA, 11). -/
def execARate9600 (s : State) : Host.Outcome State Fault Refusal := .next (applyCode .a 1 s)

/-- `A.RATE19200` (40_divisor_table.md R68): code 2 on channel A; when applied, Wr(OCRA, 5). -/
def execARate19200 (s : State) : Host.Outcome State Fault Refusal := .next (applyCode .a 2 s)

/-- `A.RATE38400` (40_divisor_table.md R69): code 3 on channel A; when applied, Wr(OCRA, 2). -/
def execARate38400 (s : State) : Host.Outcome State Fault Refusal := .next (applyCode .a 3 s)

/-- `A.RATE57600` (40_divisor_table.md R70): code 4 on channel A; when applied, Wr(OCRA, 1). -/
def execARate57600 (s : State) : Host.Outcome State Fault Refusal := .next (applyCode .a 4 s)

/-- `A.RATE115200` (40_divisor_table.md R71): code 5 on channel A; when applied, Wr(OCRA, 15). -/
def execARate115200 (s : State) : Host.Outcome State Fault Refusal := .next (applyCode .a 5 s)

/-- `A.DEF6` (40_divisor_table.md R72): code 6 on channel A; when applied, Wr(OCRA, 11). -/
def execADef6 (s : State) : Host.Outcome State Fault Refusal := .next (applyCode .a 6 s)

/-- `A.DEF7` (40_divisor_table.md R73): code 7 on channel A; when applied, Wr(OCRA, 11). -/
def execADef7 (s : State) : Host.Outcome State Fault Refusal := .next (applyCode .a 7 s)

end Sys2Proof.Machine
end

