-- ==== Sys2Proof/Machine/ChannelB.lean ====
section
/-! DEFINITION. The meanings of channel B's eight selector codes (40_divisor_table.md R66 to R73): when applied, WRITE_B
(41_poll_apply.md R82) loads OCRB with the code's divisor. -/

namespace Sys2Proof.Machine

/-- `B.RATE4800` (40_divisor_table.md R66): code 0 on channel B; when applied, Wr(OCRB, 23). -/
def execBRate4800 (s : State) : Host.Outcome State Fault Refusal := .next (applyCode .b 0 s)

/-- `B.RATE9600` (40_divisor_table.md R67): code 1 on channel B; when applied, Wr(OCRB, 11). -/
def execBRate9600 (s : State) : Host.Outcome State Fault Refusal := .next (applyCode .b 1 s)

/-- `B.RATE19200` (40_divisor_table.md R68): code 2 on channel B; when applied, Wr(OCRB, 5). -/
def execBRate19200 (s : State) : Host.Outcome State Fault Refusal := .next (applyCode .b 2 s)

/-- `B.RATE38400` (40_divisor_table.md R69): code 3 on channel B; when applied, Wr(OCRB, 2). -/
def execBRate38400 (s : State) : Host.Outcome State Fault Refusal := .next (applyCode .b 3 s)

/-- `B.RATE57600` (40_divisor_table.md R70): code 4 on channel B; when applied, Wr(OCRB, 1). -/
def execBRate57600 (s : State) : Host.Outcome State Fault Refusal := .next (applyCode .b 4 s)

/-- `B.RATE115200` (40_divisor_table.md R71): code 5 on channel B; when applied, Wr(OCRB, 15). -/
def execBRate115200 (s : State) : Host.Outcome State Fault Refusal := .next (applyCode .b 5 s)

/-- `B.DEF6` (40_divisor_table.md R72): code 6 on channel B; when applied, Wr(OCRB, 11). -/
def execBDef6 (s : State) : Host.Outcome State Fault Refusal := .next (applyCode .b 6 s)

/-- `B.DEF7` (40_divisor_table.md R73): code 7 on channel B; when applied, Wr(OCRB, 11). -/
def execBDef7 (s : State) : Host.Outcome State Fault Refusal := .next (applyCode .b 7 s)

end Sys2Proof.Machine
end

