-- ==== Sys2Proof/Machine/Dispatch.lean ====
section
/-! DEFINITION. One arm per row of spec/opcode_table.json, in the table's order. -/

namespace Sys2Proof.Machine

def exec (i : Instr) (s : State) : Host.Outcome State Fault Refusal :=
  match i with
  | .aRate4800 => Sys2Proof.Machine.execARate4800 s
  | .aRate9600 => Sys2Proof.Machine.execARate9600 s
  | .aRate19200 => Sys2Proof.Machine.execARate19200 s
  | .aRate38400 => Sys2Proof.Machine.execARate38400 s
  | .aRate57600 => Sys2Proof.Machine.execARate57600 s
  | .aRate115200 => Sys2Proof.Machine.execARate115200 s
  | .aDef6 => Sys2Proof.Machine.execADef6 s
  | .aDef7 => Sys2Proof.Machine.execADef7 s
  | .bRate4800 => Sys2Proof.Machine.execBRate4800 s
  | .bRate9600 => Sys2Proof.Machine.execBRate9600 s
  | .bRate19200 => Sys2Proof.Machine.execBRate19200 s
  | .bRate38400 => Sys2Proof.Machine.execBRate38400 s
  | .bRate57600 => Sys2Proof.Machine.execBRate57600 s
  | .bRate115200 => Sys2Proof.Machine.execBRate115200 s
  | .bDef6 => Sys2Proof.Machine.execBDef6 s
  | .bDef7 => Sys2Proof.Machine.execBDef7 s

end Sys2Proof.Machine
end

