-- ==== Sys2Proof/Machine/Step.lean ====
section
/-! DEFINITION. One step: the environment moves, then either reset fires, which wins (60_exceptions.md R104), or the
operation that FSM and PHASE name runs (41_poll_apply.md R85). WRITE_A and WRITE_B run the instruction that the
latched snapshot carries on their channel. -/

namespace Sys2Proof.Machine

/-- One operation of the block (41_poll_apply.md R85). -/
def step (s : State) : Host.Outcome State Fault Refusal :=
  match s.nextSlot with
  | .reset => .next (takeReset s.tick)
  | .pins _ =>
    match selectedOp s with
    | .poll => .next (poll s.tick)
    | .writeA => exec (decodeOn .a s.snap) s.tick
    | .writeB => exec (decodeOn .b s.snap) s.tick
    | .commit => .next (commit s.tick)
    | .reset => .next (takeReset s.tick)

/-- The state with a table word stored where the next step takes its instruction from: latched in SNAP, with FSM and
PHASE at the write of the channel `tableChannel` names, and no reset scheduled at that step (log 7). The block does not
fetch: this stands for a POLL that read the word and found a change. -/
def State.withFetchWord (s : State) (_nbits w : Nat) : State :=
  { s with
    snap := snapshot (BitVec.ofNat 8 w)
    fsm := .applying
    phase := writePhase (tableChannel (BitVec.ofNat 8 w))
    env := .pins (BitVec.ofNat 8 w) :: s.env }

end Sys2Proof.Machine
end

