-- ==== Sys2Proof/Machine/Timers.lean ====
section
/-! DEFINITION. What the spec says of the world beyond the compare registers, which is outside the block (00_scope.md R3):
the four duties of the initialisation collaborator (70_reset_and_hazards.md R125) and the frequency a timer unit gives
(60_exceptions.md R109). Nothing in the block depends on this file; a waveform is not modelled (R111; log 12). -/

namespace Sys2Proof.Machine

/-- The four duties of the initialisation collaborator, done or not (70_reset_and_hazards.md R125). -/
structure InitDuties where
  pinsAreInputs : Bool
  pinsAreOutputs : Bool
  timersConfigured : Bool
  watchdogDisabled : Bool
deriving DecidableEq, Repr

/-- `InitDone`, the premise of every claim about output frequencies (70_reset_and_hazards.md R126). -/
def InitDuties.done (i : InitDuties) : Bool :=
  i.pinsAreInputs && i.pinsAreOutputs && i.timersConfigured && i.watchdogDisabled

/-- `f = K / (d + 1)`, the frequency of a timer unit whose compare register holds `d` (60_exceptions.md R109). `k` is the
open parameter `F_TIMER` (decision D23). -/
def timerFrequency (k : ℚ) (d : Byte) : ℚ := k / (d.toNat + 1)

/-- The frequency of a channel's output clock, where the collaborator has run; none where it has not, for the spec then
says nothing of the outputs (60_exceptions.md R109, 70_reset_and_hazards.md R125, R126; 93_implementation_defined.md U16). -/
def outputFrequency (i : InitDuties) (k : ℚ) (x : Channel) (s : State) : Option ℚ :=
  if i.done then some (timerFrequency k (s.ocr x)) else none

end Sys2Proof.Machine
end

