-- ==== Sys2Proof/Machine/Trace.lean ====
section
/-! DEFINITION. Stimulus traces (30_encoding.md R60 to R62), which stand where a program stands: pseudo-items are
expanded, a trace has its byte string, and it drives the block through the schedule `State.env`. Beside them the big
step of 41_poll_apply.md R84. -/

namespace Sys2Proof.Machine

/-- `SEL a, b` as a port byte: `(b << 3) | a`, bits 7:6 zero (30_encoding.md R61). -/
def selByte (a b : Nat) : Byte := (BitVec.ofNat 8 b <<< 3) ||| BitVec.ofNat 8 a

/-- Expand the lines of a written trace (30_encoding.md R61); none where a line does not meet its condition. `last` is
the byte of the `PIN` item that a `HOLD` would repeat (log 10). -/
def expandLines (last : Option Byte) : List TraceLine → Option (List TraceItem)
  | [] => some []
  | .item (.pin v) :: rest => (expandLines (some v) rest).map (.pin v :: ·)
  | .item i :: rest => (expandLines last rest).map (i :: ·)
  | .sel a b :: rest =>
    if a ≤ 7 ∧ b ≤ 7 then (expandLines (some (selByte a b)) rest).map (.pin (selByte a b) :: ·) else none
  | .selRate ra rb :: rest =>
    match rateCode ra, rateCode rb with
    | some a, some b => (expandLines (some (selByte a b)) rest).map (.pin (selByte a b) :: ·)
    | _, _ => none
  | .hold n :: rest =>
    match last with
    | some v => (expandLines last rest).map (List.replicate n (.pin v) ++ ·)
    | none => none

/-- The byte a `PIN` item presents; a reset item has no encoding (30_encoding.md R60). -/
def itemByte : TraceItem → Option Byte
  | .pin v => some v
  | .reset => none
  | .resetAt _ => none

/-- The encoding of a trace: its `PIN` values in order (30_encoding.md R60). -/
def traceBytes (t : List TraceItem) : List Byte := t.filterMap itemByte

/-- How many operations of an applied change complete before a reset that lands at position `p` (30_encoding.md R60). -/
def opsBefore (p : Phase) : Nat :=
  match p with
  | .wa => 1
  | .wb => 2
  | .cm => 3

/-- The schedule a trace gives the block from FSM = IDLE and PREV = `prev`, one slot an operation: a `PIN` item drives a
whole iteration, POLL alone or POLL, WRITE_A, WRITE_B, COMMIT, and `RESET.WX` cuts it (30_encoding.md R60). The pins
hold the item's byte until the iteration ends; nothing reads them then (41_poll_apply.md R91; log 10). None where the
trace is not legal. -/
def traceSlots (prev : Byte) : List TraceItem → Option (List EnvSlot)
  | [] => some []
  | .reset :: rest => (traceSlots Config.prevReset rest).map (.reset :: ·)
  | .resetAt _ :: _ => none
  | .pin v :: .resetAt p :: rest =>
    if changed (snapshot v) prev then
      (traceSlots Config.prevReset rest).map (List.replicate (opsBefore p) (.pins v) ++ .reset :: ·)
    else none
  | .pin v :: rest =>
    if changed (snapshot v) prev then
      (traceSlots (zext8 (snapshot v)) rest).map (List.replicate 4 (.pins v) ++ ·)
    else (traceSlots prev rest).map (.pins v :: ·)

/-- The state after `n` operations. The block never stops (41_poll_apply.md R93), so nothing is lost by keeping the state
where a step would not answer one. -/
def stepMany : Nat → State → State
  | 0, s => s
  | n + 1, s =>
    match step s with
    | .next t => stepMany n t
    | .fault _ => s
    | .refused _ => s

/-- The clock cycles of `n` operations (70_reset_and_hazards.md R140; non-normative, log 11). -/
def runCycles : Nat → State → Nat
  | 0, _ => 0
  | n + 1, s => opCycles (performedOp s) + runCycles n (stepMany 1 s)

/-- How many of the next `n` steps take an operation of the block, POLL, WRITE_A, WRITE_B or COMMIT, and not a RESET
(41_poll_apply.md R93, decision D22). -/
def blockOps : Nat → State → Nat
  | 0, _ => 0
  | n + 1, s => (if performedOp s = .reset then 0 else 1) + blockOps n (stepMany 1 s)

/-- Run a trace from a state with FSM = IDLE: its schedule, then as many operations as it has slots (30_encoding.md R60,
"result": the events and the end values). None where the trace is not legal. -/
def runTrace (t : List TraceItem) (s : State) : Option State :=
  (traceSlots s.prev t).map fun slots => stepMany slots.length { s with env := slots ++ s.env }

/-- ITERATION(v) as a function on (PREV, OCRA, OCRB) at FSM = IDLE (41_poll_apply.md R84). -/
def iteration (v : Byte) (r : Byte × Byte × Byte) : Byte × Byte × Byte :=
  if zext8 (snapshot v) = r.1 then r
  else (zext8 (snapshot v), divCode (codeOf .a (snapshot v)), divCode (codeOf .b (snapshot v)))

/-- The events of ITERATION(v) (41_poll_apply.md R84). -/
def iterationEvents (v prev : Byte) : List Event :=
  if zext8 (snapshot v) = prev then [.rd v]
  else [.rd v, .wr .a (divCode (codeOf .a (snapshot v))), .wr .b (divCode (codeOf .b (snapshot v)))]

/-- The clock cycles of an iteration: an idle one is a POLL, an applied change all four operations
(70_reset_and_hazards.md R140; non-normative, log 11). -/
def iterationCycles (v prev : Byte) : Nat :=
  if zext8 (snapshot v) = prev then opCycles .poll
  else opCycles .poll + opCycles .writeA + opCycles .writeB + opCycles .commit

end Sys2Proof.Machine
end

