-- ==== Sys2Proof/Safety.lean ====
section
/-! DEFINITION. The terms claims are made in: a run, a reset-free stretch of it, synchronisation (41_poll_apply.md R94),
the invariant of every reachable state, and event counts (R95). -/

namespace Sys2Proof.Machine

/-- The block is synchronised: each compare register holds the divisor of its field of PREV (41_poll_apply.md R94). -/
def synchronised (s : State) : Prop :=
  s.ocra = divCode (codeOf .a (snapshot s.prev)) ∧ s.ocrb = divCode (codeOf .b (snapshot s.prev))

/-- The invariant of every reachable state: bits 7:6 of PREV are 0 (10_state.md R10); inside APPLYING the snapshot
differs from PREV (41_poll_apply.md R80) and each register already written in this iteration holds the new divisor
(R81, R82, R90); where PREV is not 0, so that a COMMIT has happened since reset, each register not yet written in this
iteration still holds PREV's divisor (R94). -/
structure Inv (s : State) : Prop where
  prevHigh : s.prev.extractLsb' 6 2 = 0
  differs : s.fsm = .applying → zext8 s.snap ≠ s.prev
  newA : s.fsm = .applying → s.phase ≠ .wa → s.ocra = s.divisor .a
  newB : s.fsm = .applying → s.phase = .cm → s.ocrb = s.divisor .b
  oldA : s.prev ≠ 0 → s.fsm = .idle ∨ s.phase = .wa → s.ocra = divCode (codeOf .a (snapshot s.prev))
  oldB : s.prev ≠ 0 → s.fsm = .idle ∨ s.phase ≠ .cm → s.ocrb = divCode (codeOf .b (snapshot s.prev))

/-- How many writes of a channel's compare register an event sequence holds (41_poll_apply.md R95). -/
def writeCount (x : Channel) (es : List Event) : Nat :=
  es.countP fun e => match e with
    | .rd _ => false
    | .wr y _ => y == x

/-- How many reads of PIN an event sequence holds (41_poll_apply.md R95). -/
def readCount (es : List Event) : Nat :=
  es.countP fun e => match e with
    | .rd _ => true
    | .wr _ _ => false

/-- The bytes the reads of PIN returned, in order. -/
def readValues (es : List Event) : List Byte :=
  es.filterMap fun e => match e with
    | .rd v => some v
    | .wr _ _ => none

/-- The first `n` coming operations are scheduled and none of them is a reset. -/
def noResetFor : Nat → List EnvSlot → Bool
  | 0, _ => true
  | _ + 1, [] => false
  | _ + 1, .reset :: _ => false
  | n + 1, .pins _ :: rest => noResetFor n rest

/-- A step that neither faults nor refuses: the block goes on (41_poll_apply.md R93). -/
def goesOn (s : State) : Prop := ∃ t, step s = .next t

/-- The run from `s` is weakly fair: from every point on, the block takes its enabled operation again, POLL, WRITE_A,
WRITE_B or COMMIT, and the reset source does not take its turn for ever (41_poll_apply.md R93, decision D22). -/
def fairRun (s : State) : Prop := ∀ n, ∃ m, n ≤ m ∧ performedOp (stepMany m s) = selectedOp (stepMany m s)

/-- Two states a run cannot tell apart but by the bits 7:6 of what the pins present (30_encoding.md R51): all registers
of the block and both compare registers agree. -/
structure SameRegisters (s t : State) : Prop where
  prev : s.prev = t.prev
  snap : s.snap = t.snap
  fsm : s.fsm = t.fsm
  phase : s.phase = t.phase
  ocra : s.ocra = t.ocra
  ocrb : s.ocrb = t.ocrb
  draws : s.draws = t.draws

/-- Two slots that differ at most in bits 7:6 of the byte the pins present (30_encoding.md R51). -/
def sameLowBits : EnvSlot → EnvSlot → Prop
  | .reset, .reset => True
  | .pins v, .pins w => snapshot v = snapshot w
  | .reset, .pins _ => False
  | .pins _, .reset => False

/-- What one row of the table says (40_divisor_table.md R66 to R73): the words of the row on channel A (`ia`, match `ma`,
mask 0x07) and on channel B (`ib`, match `mb`, mask 0x38), the divisor `d` the code `c` stands for, the informative
columns, and the effect on each channel where the code is applied: one write, PHASE moves on, nothing else changes. -/
structure RowHolds (ia ib : Instr) (c : Code) (ma mb d : Byte) (rate : Option Nat) (mode : Nat) : Prop where
  wordsA : ∀ v : Byte, (decode v).onA = ia ↔ v &&& 0x07 = ma
  wordsB : ∀ v : Byte, (decode v).onB = ib ↔ v &&& 0x38 = mb
  divisor : div c.toNat = d
  name : rateName c = rate
  mode : rateMode c = mode
  applyA : ∀ s : State, s.fsm = .applying → s.phase = .wa → s.snap.extractLsb' 0 3 = c →
    exec ia s = .next { s with ocra := d, phase := .wb, events := s.events ++ [.wr .a d] }
  applyB : ∀ s : State, s.fsm = .applying → s.phase = .wb → s.snap.extractLsb' 3 3 = c →
    exec ib s = .next { s with ocrb := d, phase := .cm, events := s.events ++ [.wr .b d] }

/-- From every state that a reset leaves (FSM IDLE, PREV 0; the rest arbitrary), the one-item trace `PIN v` gives the
event Rd(PIN, v), then the events `es` (the examples of 40_divisor_table.md R66 to R73). -/
def afterResetGives (v : Byte) (es : List Event) : Prop :=
  ∀ s : State, s.fsm = .idle → s.prev = 0 →
    ∃ t, runTrace [.pin v] s = some t ∧ t.fsm = .idle ∧ t.events = s.events ++ .rd v :: es

/-- A move of channel `x` to code 1, 6 or 7 while its register holds 11 is a change like any other: both registers are
written, the channel's own with the 11 it held (40_divisor_table.md R72, R73, corner cases). -/
def aliasedMoveRewrites : Prop :=
  ∀ (s : State) (v : Byte) (x : Channel), s.fsm = .idle → s.ocr x = 11 → v &&& 0x3F ≠ s.prev →
    codeOf x (snapshot v) ∈ ([1, 6, 7] : List Code) →
    ∃ t, runTrace [.pin v] s = some t ∧ t.ocr x = 11 ∧ t.events = s.events ++
      [.rd v, .wr .a (div (v.extractLsb' 0 3).toNat), .wr .b (div (v.extractLsb' 3 3).toNat)]

/-- A line that presents the byte `v`, whatever stands before and after it: it expands to `PIN v`, and a `HOLD n` right
after it to `PIN v` n more times (30_encoding.md R61). -/
def linePresents (line : TraceLine) (v : Byte) : Prop :=
  ∀ (l : Option Byte) (n : Nat) (rest : List TraceLine),
    expandLines l (line :: rest) = (expandLines (some v) rest).map (.pin v :: ·) ∧
    expandLines l (line :: .hold n :: rest) =
      (expandLines (some v) rest).map (.pin v :: List.replicate n (.pin v) ++ ·)

/-- An event with bits 7:6 of the byte read masked away (30_encoding.md R51). -/
def maskEvent : Event → Event
  | .rd v => .rd (v &&& Config.selMask)
  | .wr x d => .wr x d

end Sys2Proof.Machine
end

