-- ==== Sys2Proof/Certificates/Slice0/Obligations.lean ====
section
/-! DEFINITION. The statements for the provers. Each docstring names the rule of spec/ a statement formalises. Beside the
inputs a statement names, every state it quantifies over is arbitrary: the registers, the events so far, what is scheduled
and the draw counter. `{ s with pin := v, env := s.env.tail, draws := s.draws + 1 }` is `s` after the environment has moved:
the pins present `v`, one slot is used up. -/

open Sys2Proof Sys2Proof.Machine

/-! ### The sixteen instructions -/

/-- 40_divisor_table.md R66: code 0 on both channels, its corner case (a zero snapshot right after reset is not applied)
and its example. -/
def Obligations.Rate4800LoadsDivisor23 : Prop :=
  RowHolds .aRate4800 .bRate4800 0 0x00 0x00 23 (some 4800) 16 ∧
  (∀ (s : State) (v : Byte), s.fsm = .idle → s.prev = 0 → s.nextSlot = .pins v → v.extractLsb' 0 6 = 0 →
    step s = .next { s with pin := v, env := s.env.tail, draws := s.draws + 1, events := s.events ++ [.rd v] }) ∧
  afterResetGives 0x08 [.wr .a 23, .wr .b 11]

/-- 40_divisor_table.md R67: code 1, its corner case (its divisor is that of codes 6 and 7) and its example. -/
def Obligations.Rate9600LoadsDivisor11 : Prop :=
  RowHolds .aRate9600 .bRate9600 1 0x01 0x08 11 (some 9600) 16 ∧ div 6 = div 1 ∧ div 7 = div 1 ∧
  afterResetGives 0x01 [.wr .a 11, .wr .b 23]

/-- 40_divisor_table.md R68: code 2 and its example. -/
def Obligations.Rate19200LoadsDivisor5 : Prop :=
  RowHolds .aRate19200 .bRate19200 2 0x02 0x10 5 (some 19200) 16 ∧ afterResetGives 0x12 [.wr .a 5, .wr .b 5]

/-- 40_divisor_table.md R69: code 3 and its example. -/
def Obligations.Rate38400LoadsDivisor2 : Prop :=
  RowHolds .aRate38400 .bRate38400 3 0x03 0x18 2 (some 38400) 16 ∧ afterResetGives 0x23 [.wr .a 2, .wr .b 1]

/-- 40_divisor_table.md R70: code 4, the smallest divisor, never 0, and its example. -/
def Obligations.Rate57600LoadsDivisor1 : Prop :=
  RowHolds .aRate57600 .bRate57600 4 0x04 0x20 1 (some 57600) 16 ∧ (∀ c : Code, 1 ≤ (div c.toNat).toNat) ∧
  afterResetGives 0x04 [.wr .a 1, .wr .b 23]

/-- 40_divisor_table.md R71: code 5, mode 1, a larger divisor than code 4's although its rate name is higher, and its
example. -/
def Obligations.Rate115200LoadsDivisor15 : Prop :=
  RowHolds .aRate115200 .bRate115200 5 0x05 0x28 15 (some 115200) 1 ∧ (div 4).toNat < (div 5).toNat ∧
  afterResetGives 0x28 [.wr .a 23, .wr .b 15]

/-- 40_divisor_table.md R72: code 6 takes the default divisor; a move among the codes 1, 6 and 7 is a change that rewrites
both registers, the channel's own with the 11 it held; and its example. -/
def Obligations.Code6LoadsDefaultDivisor11 : Prop :=
  RowHolds .aDef6 .bDef6 6 0x06 0x30 11 none 16 ∧ aliasedMoveRewrites ∧ afterResetGives 0x06 [.wr .a 11, .wr .b 23]

/-- 40_divisor_table.md R73: code 7 takes the default divisor; its corner case is code 6's; its example, both channels at
the default. -/
def Obligations.Code7LoadsDefaultDivisor11 : Prop :=
  RowHolds .aDef7 .bDef7 7 0x07 0x38 11 none 16 ∧ aliasedMoveRewrites ∧ afterResetGives 0x3F [.wr .a 11, .wr .b 11]

/-- 10_state.md R20 and 30_encoding.md R59: an instruction never touches the other channel's register, and of the block's
own registers it moves PHASE alone. This holds in every state, applied or not: either nothing at all has changed, or the
one write was made, with its event, and PHASE has moved on. -/
def Obligations.InstructionsTouchOnlyTheirOwnChannel : Prop :=
  ∀ (i : Instr) (s t : State), exec i s = .next t →
    t.prev = s.prev ∧ t.snap = s.snap ∧ t.fsm = s.fsm ∧ t.env = s.env ∧ t.draws = s.draws ∧
    (∀ l, l ≠ ocrLoc i.channel → t.ioByte l = s.ioByte l) ∧
    (t = s ∨
      (t.events = s.events ++ [.wr i.channel (div i.code.toNat)] ∧
        t.ioByte (ocrLoc i.channel) = div i.code.toNat ∧ t.phase = afterWrite i.channel))

/-- THE MODEL'S CHOICE (log 6): an instruction whose WRITE is not the enabled operation, or whose code does not stand in
the latched snapshot, changes nothing. The step function never runs one so. -/
def Obligations.InstructionsNotAppliedDoNothing : Prop :=
  ∀ (i : Instr) (s : State),
    s.fsm = .idle ∨ s.phase ≠ writePhase i.channel ∨ codeOf i.channel s.snap ≠ i.code → exec i s = .next s

/-! ### The Divisor Table -/

/-- 40_divisor_table.md R65: DIV on every integer. -/
def Obligations.DivisorTableOnEveryInteger : Prop :=
  div 0 = 23 ∧ div 1 = 11 ∧ div 2 = 5 ∧ div 3 = 2 ∧ div 4 = 1 ∧ div 5 = 15 ∧ ∀ c : Int, c < 0 ∨ 5 < c → div c = 11

/-- 40_divisor_table.md R74: the image of DIV, its bound, and where it is injective. -/
def Obligations.DivisorTableImage : Prop :=
  (∀ d : Byte, (∃ c : Int, div c = d) ↔ d ∈ ([1, 2, 5, 11, 15, 23] : List Byte)) ∧
  (∀ c : Int, (div c).toNat ≤ 23 ∧ (div c).extractLsb' 5 3 = 0 ∧ div c ≠ 0) ∧
  (div 1 = 11 ∧ div 6 = 11 ∧ div 7 = 11) ∧
  ∀ c e : Int, 0 ≤ c → c ≤ 5 → 0 ≤ e → e ≤ 5 → div c = div e → c = e

/-- 40_divisor_table.md R76, 60_exceptions.md R110: in every named row (divisor + 1) x rate name x mode is 1 843 200, so
that where the collaborator has run and K is that number a channel's output clock is its rate name times its mode. -/
def Obligations.OutputClockIsRateTimesMode : Prop :=
  ∀ (c : Code) (r : Nat), rateName c = some r →
    ((div c.toNat).toNat + 1) * r * rateMode c = 1843200 ∧
    ∀ (i : InitDuties) (x : Channel) (s : State), i.done = true → s.ocr x = div c.toNat →
      outputFrequency i 1843200 x s = some ((r : ℚ) * (rateMode c : ℚ))

/-! ### Encodings -/

/-- 30_encoding.md R52: the two fields of a snapshot, and the snapshot from them. -/
def Obligations.SnapshotFields : Prop :=
  ∀ s : Snap, codeOf .a s = s.extractLsb' 0 3 ∧ codeOf .b s = s.extractLsb' 3 3 ∧
    (codeOf .a s).setWidth 6 = s &&& 0b000111 ∧ (codeOf .b s).setWidth 6 = (s >>> 3) &&& 0b000111 ∧
    s = codeOf .b s ++ codeOf .a s ∧ s.toNat = 8 * (codeOf .b s).toNat + (codeOf .a s).toNat

/-- 30_encoding.md R56: every byte matches exactly one row of each channel, and the decoder gives those two. -/
def Obligations.DecodingIsTotalAndUnambiguous : Prop :=
  ∀ (v : Byte) (i : Instr),
    (i.channel = .a → (v &&& 0x07 = i.matchBits ↔ i = (decode v).onA)) ∧
    (i.channel = .b → (v &&& 0x38 = i.matchBits ↔ i = (decode v).onB)) ∧
    (decode v).onA.channel = .a ∧ (decode v).onB.channel = .b

/-- 30_encoding.md R50, R55: whatever stands in the bits a row leaves free, the encoded instruction decodes to itself and
those bits stay as they were given. -/
def Obligations.EncodedInstructionDecodesToItself : Prop :=
  ∀ (i : Instr) (rest : Byte),
    decodeOn i.channel (snapshot (encode i rest)) = i ∧ i.matchesWord (encode i rest) = true ∧
    encode i rest &&& ~~~ i.maskBits = rest &&& ~~~ i.maskBits

/-- 30_encoding.md R50, R52, R60: the byte string of a list of well-formed words decodes to that list, and every byte
string is the encoding of what it decodes to. No bit is dropped. -/
def Obligations.ByteStringsDecodeAndEncode : Prop :=
  (∀ ws : List (BitVec 2 × Word8), (∀ p ∈ ws, p.2.wf = true) →
    decodeAll (encodeAll ws) = ws.map Prod.snd ∧ (encodeAll ws).map (fun v => v.extractLsb' 6 2) = ws.map Prod.fst) ∧
  ∀ vs : List Byte, (∀ w ∈ decodeAll vs, w.wf = true) ∧
    encodeAll ((vs.map fun v => v.extractLsb' 6 2).zip (decodeAll vs)) = vs

/-- 95_test_vectors.md V12, V15, V17, V18 and V19, with the words written out bit by bit from 30_encoding.md R55. -/
def Obligations.WordsWrittenOutDecode : Prop :=
  decode 0b00000001 = ⟨.aRate9600, .bRate4800⟩ ∧ decode 0b00101001 = ⟨.aRate9600, .bRate115200⟩ ∧
  decode 0b11000001 = ⟨.aRate9600, .bRate4800⟩ ∧ decode 0b11111111 = ⟨.aDef7, .bDef7⟩ ∧
  decode 0b00111000 = ⟨.aRate4800, .bDef7⟩ ∧ decode 0b00100011 = ⟨.aRate38400, .bRate57600⟩ ∧
  decode 0b00110010 = ⟨.aRate19200, .bDef6⟩ ∧ decode 0b00010100 = ⟨.aRate57600, .bRate19200⟩

/-- 30_encoding.md R61: `PIN v`, `SEL a, b` and `SEL` with two of the six rate names each present one byte, and `HOLD n`
repeats the byte last presented n more times, whether it stands after one of these, after another `HOLD` or further on.
THE MODEL'S READING, DEDUCED (log 10): a line that does not meet R61's condition (a code above 7, a name that is no rate
name, a `HOLD` with no `PIN` or `SEL` before it) has no expansion, and so a written trace has one exactly if every line
meets its condition; and a reset item, which presents nothing, does not end what a later `HOLD` repeats. -/
def Obligations.PseudoItemsExpand : Prop :=
  (∀ v : Byte, linePresents (.item (.pin v)) v) ∧
  (∀ a b : Nat, a ≤ 7 → b ≤ 7 → linePresents (.sel a b) (BitVec.ofNat 8 (8 * b + a))) ∧
  (∀ (a b : Code) (ra rb : Nat), rateName a = some ra → rateName b = some rb →
    linePresents (.selRate ra rb) (BitVec.ofNat 8 (8 * b.toNat + a.toNat))) ∧
  (∀ (l : Option Byte) (m n : Nat) (rest : List TraceLine),
    expandLines l (.hold m :: .hold n :: rest) = expandLines l (.hold (m + n) :: rest)) ∧
  (∀ (l : Option Byte) (i : TraceItem) (rest : List TraceLine), itemByte i = none →
    expandLines l (.item i :: rest) = (expandLines l rest).map (i :: ·)) ∧
  (∀ (l : Option Byte) (a b : Nat) (rest : List TraceLine), 7 < a ∨ 7 < b → expandLines l (.sel a b :: rest) = none) ∧
  (∀ (l : Option Byte) (ra rb : Nat) (rest : List TraceLine),
    (∀ c : Code, rateName c ≠ some ra) ∨ (∀ c : Code, rateName c ≠ some rb) →
    expandLines l (.selRate ra rb :: rest) = none) ∧
  (∀ (n : Nat) (rest : List TraceLine), expandLines none (.hold n :: rest) = none) ∧
  (∀ (l : Option Byte) (ls : List TraceLine) (items : List TraceItem) (n : Nat) (rest : List TraceLine) (v : Byte),
    expandLines l ls = some items → (traceBytes items).getLast?.or l = some v →
    expandLines l (ls ++ .hold n :: rest) =
      (expandLines (some v) rest).map (items ++ List.replicate n (.pin v) ++ ·)) ∧
  ∀ (l : Option Byte) (ls : List TraceLine), (expandLines l ls).isSome = linesWf l.isSome ls

/-! ### The operations -/

/-- 41_poll_apply.md R80. -/
def Obligations.PollReadsAndDetectsChange : Prop :=
  ∀ (s : State) (v : Byte), s.fsm = .idle → s.nextSlot = .pins v →
    step s = .next (
      if v &&& 0x3F = s.prev then
        { s with pin := v, env := s.env.tail, draws := s.draws + 1, events := s.events ++ [.rd v] }
      else
        { s with
          pin := v, env := s.env.tail, draws := s.draws + 1, events := s.events ++ [.rd v]
          snap := v.extractLsb' 0 6, fsm := .applying, phase := .wa })

/-- 41_poll_apply.md R81. -/
def Obligations.WriteALoadsOcra : Prop :=
  ∀ (s : State) (v : Byte), s.fsm = .applying → s.phase = .wa → s.nextSlot = .pins v →
    step s = .next { s with
      pin := v, env := s.env.tail, draws := s.draws + 1
      ocra := div (s.snap.extractLsb' 0 3).toNat
      events := s.events ++ [.wr .a (div (s.snap.extractLsb' 0 3).toNat)]
      phase := .wb }

/-- 41_poll_apply.md R82. -/
def Obligations.WriteBLoadsOcrb : Prop :=
  ∀ (s : State) (v : Byte), s.fsm = .applying → s.phase = .wb → s.nextSlot = .pins v →
    step s = .next { s with
      pin := v, env := s.env.tail, draws := s.draws + 1
      ocrb := div (s.snap.extractLsb' 3 3).toNat
      events := s.events ++ [.wr .b (div (s.snap.extractLsb' 3 3).toNat)]
      phase := .cm }

/-- 41_poll_apply.md R83. -/
def Obligations.CommitStoresSnapshot : Prop :=
  ∀ (s : State) (v : Byte), s.fsm = .applying → s.phase = .cm → s.nextSlot = .pins v →
    step s = .next { s with
      pin := v, env := s.env.tail, draws := s.draws + 1
      prev := s.snap.setWidth 8, fsm := .idle }

/-- 70_reset_and_hazards.md R120: in every state in which the reset source fires, whichever operation would have started,
PREV becomes 0 and FSM IDLE, with no event; and RESET is idempotent: a second one leaves them as one does. Of OCRA, OCRB,
SNAP and PHASE, which the rule leaves open, nothing is said. -/
def Obligations.ResetTakesTheOperationsPlace : Prop :=
  (∀ s : State, s.nextSlot = .reset → ∃ t, step s = .next t ∧ t.prev = 0 ∧ t.fsm = .idle ∧ t.events = s.events) ∧
  ∀ s t u : State, s.nextSlot = .reset → t.nextSlot = .reset → step s = .next t → step t = .next u →
    u.prev = t.prev ∧ u.fsm = t.fsm ∧ u.events = t.events

/-- THE MODEL'S CHOICES at a reset. PIN keeps its byte (log 4); one slot of the schedule and one draw are used up (log 3);
OCRA, OCRB (log 1), SNAP and PHASE (log 2) take values of the draw counter alone, so that two states with the same
counter agree in every register after it. The spec asks for less: decision D9 lets a draw be anything, "unchanged across
reset" among it. -/
def Obligations.ResetDrawsFollowTheCounter : Prop :=
  (∀ s : State, s.nextSlot = .reset → ∃ t, step s = .next t ∧
    t.pin = s.pin ∧ t.env = s.env.tail ∧ t.draws = s.draws + 1) ∧
  ∀ s r t u : State, s.nextSlot = .reset → r.nextSlot = .reset → s.draws = r.draws →
    step s = .next t → step r = .next u →
    t.prev = u.prev ∧ t.fsm = u.fsm ∧ t.snap = u.snap ∧ t.phase = u.phase ∧ t.ocra = u.ocra ∧ t.ocrb = u.ocrb

/-- 70_reset_and_hazards.md R121: the values after reset that the spec gives, and that the first operation is a POLL. -/
def Obligations.ResetStateIsIdleWithZeroCache : Prop :=
  State.reset.prev = 0 ∧ State.reset.fsm = .idle ∧ selectedOp State.reset = .poll

/-- A step runs the decoded instruction: at WA and at WB a step is exec of the instruction that any word with the latched
snapshot carries on that channel, on the state after the environment has moved (40_divisor_table.md, "applied"; 41 R81,
R82). -/
def Obligations.StepRunsTheDecodedInstruction : Prop :=
  ∀ (s : State) (v w : Byte), s.fsm = .applying → s.nextSlot = .pins v → snapshot w = s.snap →
    (s.phase = .wa →
      step s = exec (decode w).onA { s with pin := v, env := s.env.tail, draws := s.draws + 1 }) ∧
    (s.phase = .wb →
      step s = exec (decode w).onB { s with pin := v, env := s.env.tail, draws := s.draws + 1 })

/-- THE MODEL'S CHOICE of which of a word's two instructions a table word stands for (log 7): the word that
withFetchWord stores is run by the very next step, as the instruction decodeTableWord reads, and its write is made. -/
def Obligations.StoredTableWordRunsNext : Prop :=
  ∀ (s : State) (w : Nat) (i : Instr), decodeTableWord 8 w = some i →
    ∃ t, step (s.withFetchWord 8 w) = .next t ∧
      exec i (s.withFetchWord 8 w).tick = .next t ∧
      t.ocr i.channel = div i.code.toNat ∧ t.events = s.events ++ [.wr i.channel (div i.code.toNat)] ∧
      t.prev = s.prev ∧ t.env = s.env ∧ ∀ x, x ≠ i.channel → t.ocr x = s.ocr x

/-! ### The state machine -/

/-- 41_poll_apply.md R85: the complete transition table, with the accesses of each transition. -/
def Obligations.TransitionTableIsComplete : Prop :=
  ∀ s t : State, step s = .next t →
    (s.nextSlot = .reset ∧ t.fsm = .idle ∧ t.events = s.events) ∨
    ∃ v, s.nextSlot = .pins v ∧
      ((s.fsm = .idle ∧ v &&& 0x3F = s.prev ∧ t.fsm = .idle ∧ t.events = s.events ++ [.rd v]) ∨
       (s.fsm = .idle ∧ v &&& 0x3F ≠ s.prev ∧ t.fsm = .applying ∧ t.phase = .wa ∧ t.events = s.events ++ [.rd v]) ∨
       (s.fsm = .applying ∧ s.phase = .wa ∧ t.fsm = .applying ∧ t.phase = .wb ∧
         t.events = s.events ++ [.wr .a (div (s.snap.extractLsb' 0 3).toNat)]) ∨
       (s.fsm = .applying ∧ s.phase = .wb ∧ t.fsm = .applying ∧ t.phase = .cm ∧
         t.events = s.events ++ [.wr .b (div (s.snap.extractLsb' 3 3).toNat)]) ∨
       (s.fsm = .applying ∧ s.phase = .cm ∧ t.fsm = .idle ∧ t.events = s.events))

/-- 41_poll_apply.md R92: exactly one of the four operations is enabled and RESET besides; the registers, the value drawn
and the draw counter determine the next registers and the event. -/
def Obligations.ExactlyOneOperationEnabled : Prop :=
  (∀ s : State, enabled .reset s = true ∧ ∀ o : Op, o ≠ .reset → (enabled o s = true ↔ o = selectedOp s)) ∧
  ∀ s t s' t' : State, SameRegisters s t → s.nextSlot = t.nextSlot → step s = .next s' → step t = .next t' →
    SameRegisters s' t' ∧ ∃ es, s'.events = s.events ++ es ∧ t'.events = t.events ++ es

/-- 41_poll_apply.md R93, 60_exceptions.md R100: no state stops the block, and from every state a POLL is the enabled
operation within three further operations, whatever the environment does; every run is weakly fair; and so from every
state a POLL does occur, with at most three other operations of the block before it, however many resets fire between.
That fairness holds of runs whose schedule has ended is the assumption R93 asks for, which stands in `freeSlot`
(logs 3, 15). -/
def Obligations.NeverHaltsAndPollsWithinThree : Prop :=
  (∀ s : State, goesOn s ∧ ∃ k, k ≤ 3 ∧ selectedOp (stepMany k s) = .poll) ∧
  (∀ s : State, fairRun s) ∧
  ∀ s : State, ∃ k, performedOp (stepMany k s) = .poll ∧ blockOps k s ≤ 3

/-- 41_poll_apply.md R93, decision D22 ("a held change is eventually applied"): from every state, applying or not, once the
pins have held one snapshot for seven operations with no reset it is applied and PREV holds it, and it stays so for as
long as they hold it; where it is not zero and the state had the invariant both registers hold its divisors. -/
def Obligations.HeldSnapshotIsApplied : Prop :=
  ∀ (s : State) (v : Byte) (vs : List Byte) (rest : List EnvSlot), 7 ≤ vs.length →
    (∀ w ∈ vs, w.extractLsb' 0 6 = v.extractLsb' 0 6) → s.env = vs.map .pins ++ rest →
    (stepMany vs.length s).fsm = .idle ∧ (stepMany vs.length s).prev = v &&& 0x3F ∧
    (Inv s → v &&& 0x3F ≠ 0 →
      (stepMany vs.length s).ocra = div (v.extractLsb' 0 3).toNat ∧
      (stepMany vs.length s).ocrb = div (v.extractLsb' 3 3).toNat)

/-- 41_poll_apply.md R84: the small steps of any number of iterations compose to the big step, in registers and events. -/
def Obligations.SmallStepsComposeToIterations : Prop :=
  ∀ (vs : List Byte) (s : State), s.fsm = .idle →
    ∃ t, runTrace (vs.map .pin) s = some t ∧ t.fsm = .idle ∧ t.env = s.env ∧
      (t.prev, t.ocra, t.ocrb) = vs.foldl (fun r v => iteration v r) (s.prev, s.ocra, s.ocrb) ∧
      t.events = (vs.foldl
        (fun (p : List Event × Byte × Byte × Byte) v => (p.1 ++ iterationEvents v p.2.1, iteration v p.2))
        (s.events, s.prev, s.ocra, s.ocrb)).1

/-- 30_encoding.md R57: a word whose snapshot is PREV is decoded to nothing at all: one read, and no register of the block
or of the timers changes. A word whose snapshot differs has both its instructions executed, channel A's then channel
B's, whichever field differs. -/
def Obligations.WordTakesEffectOnlyIfSnapshotDiffers : Prop :=
  (∀ (s : State) (v : Byte), s.fsm = .idle → s.nextSlot = .pins v → v &&& 0x3F = s.prev →
    ∃ t, step s = .next t ∧ SameRegisters { s with draws := s.draws + 1 } t ∧ t.events = s.events ++ [.rd v]) ∧
  ∀ (s : State) (v w x y : Byte) (rest : List EnvSlot), s.fsm = .idle → v &&& 0x3F ≠ s.prev →
    s.env = .pins v :: .pins w :: .pins x :: .pins y :: rest →
    exec (decode v).onA (stepMany 1 s).tick = .next (stepMany 2 s) ∧
    exec (decode v).onB (stepMany 2 s).tick = .next (stepMany 3 s) ∧
    (∀ c, writeCount c (stepMany 3 s).events = writeCount c s.events + 1) ∧ (stepMany 4 s).fsm = .idle

/-- 41_poll_apply.md R91: while FSM = APPLYING the pins are not read. What they present makes no difference but to PIN
itself, no operation reads, and the next POLL compares the pins with the snapshot that was latched. -/
def Obligations.PinsAreNotReadInsideApplying : Prop :=
  (∀ (s : State) (v w : Byte) (rest : List EnvSlot) (t u : State), s.fsm = .applying →
    step { s with env := .pins v :: rest } = .next t → step { s with env := .pins w :: rest } = .next u →
    t = { u with pin := v } ∧ readCount t.events = readCount s.events) ∧
  ∀ (s : State) (v w x y z : Byte) (rest : List EnvSlot), s.fsm = .idle → v &&& 0x3F ≠ s.prev →
    s.env = .pins v :: .pins w :: .pins x :: .pins y :: .pins z :: rest →
    (stepMany 4 s).fsm = .idle ∧ (stepMany 4 s).prev = v &&& 0x3F ∧
    ((stepMany 5 s).fsm = .applying ↔ z &&& 0x3F ≠ v &&& 0x3F)

/-- 41_poll_apply.md R86: one detected change, whichever field changed, writes each register exactly once, A before B,
with no suppression of an unchanged value. -/
def Obligations.EveryChangeWritesBothRegistersOnce : Prop :=
  ∀ (s : State) (v w x y : Byte) (rest : List EnvSlot), s.fsm = .idle → v &&& 0x3F ≠ s.prev →
    s.env = .pins v :: .pins w :: .pins x :: .pins y :: rest →
    (stepMany 4 s).events = s.events ++
      [.rd v, .wr .a (div (v.extractLsb' 0 3).toNat), .wr .b (div (v.extractLsb' 3 3).toNat)] ∧
    (stepMany 4 s).ocra = div (v.extractLsb' 0 3).toNat ∧ (stepMany 4 s).ocrb = div (v.extractLsb' 3 3).toNat ∧
    (∀ c : Channel, writeCount c (stepMany 4 s).events = writeCount c s.events + 1)

/-- 41_poll_apply.md R87: over N consecutive polls of one snapshot the write step is performed once if the snapshot was
new and never if it was not. -/
def Obligations.UnchangingSnapshotIsWrittenOnce : Prop :=
  ∀ (s : State) (v : Byte) (vs : List Byte), s.fsm = .idle →
    (∀ w ∈ vs, w.extractLsb' 0 6 = v.extractLsb' 0 6) →
    ∃ t, runTrace (.pin v :: vs.map .pin) s = some t ∧
      (v &&& 0x3F ≠ s.prev → ∃ da db, t.events = s.events ++ .rd v :: .wr .a da :: .wr .b db :: vs.map .rd) ∧
      (v &&& 0x3F = s.prev → t.events = s.events ++ .rd v :: vs.map .rd)

/-- 41_poll_apply.md R88: PREV changes only at a COMMIT, to the latched snapshot, and at reset; and after an applied
change it is the masked byte that the iteration's POLL read. -/
def Obligations.CacheHoldsTheAppliedSnapshot : Prop :=
  (∀ s t : State, step s = .next t → t.prev ≠ s.prev →
    (s.nextSlot = .reset ∧ t.prev = 0) ∨
    (s.fsm = .applying ∧ s.phase = .cm ∧ t.fsm = .idle ∧ t.prev = t.snap.setWidth 8 ∧ t.snap = s.snap)) ∧
  (∀ (s t : State) (v : Byte), s.fsm = .applying → s.phase = .cm → s.nextSlot = .pins v → step s = .next t →
    t.prev = t.snap.setWidth 8) ∧
  ∀ (s : State) (v w x y : Byte) (rest : List EnvSlot), s.fsm = .idle → v &&& 0x3F ≠ s.prev →
    s.env = .pins v :: .pins w :: .pins x :: .pins y :: rest →
    (stepMany 4 s).prev = v &&& 0x3F ∧ (stepMany 4 s).snap.setWidth 8 = v &&& 0x3F

/-- 41_poll_apply.md R89: a change of one channel's field alone, from a synchronised idle state, loads that channel's
divisor and leaves the value of the other channel's register. -/
def Obligations.ChannelsAreIndependent : Prop :=
  ∀ (s : State) (v : Byte), s.fsm = .idle → synchronised s → s.prev.extractLsb' 6 2 = 0 →
    (v.extractLsb' 3 3 = s.prev.extractLsb' 3 3 → v.extractLsb' 0 3 ≠ s.prev.extractLsb' 0 3 →
      ∃ t, runTrace [.pin v] s = some t ∧ t.ocra = div (v.extractLsb' 0 3).toNat ∧ t.ocrb = s.ocrb) ∧
    (v.extractLsb' 0 3 = s.prev.extractLsb' 0 3 → v.extractLsb' 3 3 ≠ s.prev.extractLsb' 3 3 →
      ∃ t, runTrace [.pin v] s = some t ∧ t.ocrb = div (v.extractLsb' 3 3).toNat ∧ t.ocra = s.ocra)

/-- 41_poll_apply.md R90, 70_reset_and_hazards.md R135: after WRITE_A and before WRITE_B channel A's register holds the
new divisor and channel B's the old one; after WRITE_B both are new. -/
def Obligations.TornWindowBetweenTheWrites : Prop :=
  ∀ (s : State) (v w x : Byte) (rest : List EnvSlot), s.fsm = .idle → synchronised s → v &&& 0x3F ≠ s.prev →
    s.env = .pins v :: .pins w :: .pins x :: rest →
    (stepMany 1 s).ocra = s.ocra ∧ (stepMany 1 s).ocrb = s.ocrb ∧
    (stepMany 2 s).ocra = div (v.extractLsb' 0 3).toNat ∧
    (stepMany 2 s).ocrb = div (s.prev.extractLsb' 3 3).toNat ∧
    (stepMany 3 s).ocra = div (v.extractLsb' 0 3).toNat ∧ (stepMany 3 s).ocrb = div (v.extractLsb' 3 3).toNat

/-- 20_memory.md R33: which accesses each operation makes: none but POLL's one read and the two writes' one write. -/
def Obligations.OperationsMakeExactlyTheirAccess : Prop :=
  ∀ (s t : State) (v : Byte), s.nextSlot = .pins v → step s = .next t →
    ∃ es, t.events = s.events ++ es ∧
      (selectedOp s = .poll → es = [.rd v]) ∧
      (selectedOp s = .writeA → es = [.wr .a (div (s.snap.extractLsb' 0 3).toNat)]) ∧
      (selectedOp s = .writeB → es = [.wr .b (div (s.snap.extractLsb' 3 3).toNat)]) ∧
      (selectedOp s = .commit → es = [])

/-- 10_state.md R18, R19, 20_memory.md R40: a compare register changes only at its own write event, which gives its new
value, and at reset; PIN changes only with the pins. -/
def Obligations.CompareRegistersChangeOnlyAtTheirWrite : Prop :=
  ∀ s t : State, step s = .next t → s.nextSlot ≠ .reset →
    (∀ x, t.ocr x = s.ocr x ∨ t.events = s.events ++ [.wr x (t.ocr x)]) ∧
    (∀ v, s.nextSlot = .pins v → t.pin = v)

/-- 30_encoding.md R54, 10_state.md R18: every word a step writes is one of the six divisors, bits 7:5 zero. -/
def Obligations.WrittenWordsAreTableDivisors : Prop :=
  ∀ (s t : State) (x : Channel) (d : Byte), step s = .next t → t.events = s.events ++ [.wr x d] →
    d ∈ ([23, 11, 5, 2, 1, 15] : List Byte) ∧ d.extractLsb' 5 3 = 0 ∧ t.ocr x = d

/-! ### Invariants -/

/-- Every step keeps the invariant, from every state that has it, whatever the environment does (10_state.md R10,
41_poll_apply.md R80, R90, R94). -/
def Obligations.EveryStepKeepsTheRegistersInStep : Prop :=
  ∀ s t : State, Inv s → step s = .next t → Inv t

/-- The state right after reset has the invariant, whatever the free values are. -/
def Obligations.ResetHasTheRegistersInStep : Prop := Inv State.reset

/-- 41_poll_apply.md R94: (a) after every COMMIT the block is synchronised, (b) a synchronised idle block stays so
through a POLL that finds no change, (c) after a reset and before the first COMMIT, and (d) inside APPLYING, it need not
be. -/
def Obligations.SynchronisedAfterCommit : Prop :=
  (∀ (s t : State) (v : Byte), Inv s → s.fsm = .applying → s.phase = .cm → s.nextSlot = .pins v → step s = .next t →
    synchronised t) ∧
  (∀ (s t : State) (v : Byte), synchronised s → s.fsm = .idle → s.nextSlot = .pins v → v &&& 0x3F = s.prev →
    step s = .next t → synchronised t ∧ t.fsm = .idle) ∧
  (∃ s : State, Inv s ∧ s.fsm = .idle ∧ s.prev = 0 ∧ ¬ synchronised s) ∧
  ∃ s : State, Inv s ∧ s.fsm = .applying ∧ s.prev ≠ 0 ∧ ¬ synchronised s

/-- 41_poll_apply.md R95: over a stretch with no reset, from FSM = IDLE, the writes are A, B, A, B, ..., and a last A
alone exactly while the block stands between WRITE_A and WRITE_B. -/
def Obligations.WritesAlternateWithoutReset : Prop :=
  ∀ (n : Nat) (s : State), s.fsm = .idle → noResetFor n s.env = true →
    writeCount .a (stepMany n s).events + writeCount .b s.events =
      writeCount .b (stepMany n s).events + writeCount .a s.events +
        (if (stepMany n s).fsm = .applying ∧ (stepMany n s).phase = .wb then 1 else 0) ∧
    ∃ (k : Nat) (es : List Event), (stepMany n s).events = s.events ++ es ∧
      es.filterMap (fun e => match e with | .rd _ => none | .wr x _ => some x) =
        (List.replicate k [Channel.a, Channel.b]).flatten ++
          (if (stepMany n s).fsm = .applying ∧ (stepMany n s).phase = .wb then [Channel.a] else [])

/-! ### Isolation -/

/-- 10_state.md R18, R19, 20_memory.md R41: the compare registers are never read back. Two runs that differ in them alone
agree, for any number of operations, in everything else. -/
def Obligations.CompareRegistersAreNeverReadBack : Prop :=
  ∀ (n : Nat) (s : State) (a b : Byte),
    { stepMany n { s with ocra := a, ocrb := b } with
      ocra := (stepMany n s).ocra, ocrb := (stepMany n s).ocrb } = stepMany n s

/-- 30_encoding.md R51: the snapshot is the byte under the mask, its low six bits; and bits 7:6 of what the pins present have no effect, in any state and over any number of scheduled
operations, but for the byte shown in the read's own event. -/
def Obligations.HighPinBitsHaveNoEffect : Prop :=
  (∀ v : Byte, zext8 (snapshot v) = v &&& 0x3F ∧ snapshot v = v.extractLsb' 0 6) ∧
  ∀ (n : Nat) (s t : State), SameRegisters s t → List.Forall₂ sameLowBits s.env t.env → n ≤ s.env.length →
    s.events.map maskEvent = t.events.map maskEvent →
    SameRegisters (stepMany n s) (stepMany n t) ∧
    (stepMany n s).events.map maskEvent = (stepMany n t).events.map maskEvent

/-! ### Reset, traces and hazards -/

/-- 70_reset_and_hazards.md R123: after a reset, whatever the compare registers hold, the first snapshot read is applied,
and the block is then synchronised, if and only if it is not zero; that the pins may not have moved plays no part. -/
def Obligations.ResynchronisesAfterReset : Prop :=
  ∀ (s : State) (v : Byte), s.nextSlot = .reset →
    ∃ r t, step s = .next r ∧ runTrace [.pin v] r = some t ∧ t.fsm = .idle ∧ t.prev = v &&& 0x3F ∧
      (v.extractLsb' 0 6 ≠ 0 → synchronised t ∧ t.events = s.events ++
        [.rd v, .wr .a (div (v.extractLsb' 0 3).toNat), .wr .b (div (v.extractLsb' 3 3).toNat)]) ∧
      (v.extractLsb' 0 6 = 0 → t.events = s.events ++ [.rd v])

/-- 70_reset_and_hazards.md R133: after a reset, as long as the six selector pins read zero, nothing is written: the
compare registers keep what the reset left in them and the only events are reads. -/
def Obligations.ZeroPinsAfterResetWriteNothing : Prop :=
  ∀ (s : State) (vs : List Byte), s.fsm = .idle → s.prev = 0 → (∀ v ∈ vs, v.extractLsb' 0 6 = 0) →
    ∃ t, runTrace (vs.map .pin) s = some t ∧ t.ocra = s.ocra ∧ t.ocrb = s.ocrb ∧ t.fsm = .idle ∧ t.prev = 0 ∧
      t.events = s.events ++ vs.map .rd

/-- 70_reset_and_hazards.md R137: a reset inside APPLYING leaves the events already made, makes no further write, and
the next POLL compares with 0. -/
def Obligations.ResetInsideApplying : Prop :=
  ∀ (s : State) (v : Byte), s.fsm = .idle → v &&& 0x3F ≠ s.prev →
    (∃ t, runTrace [.pin v, .resetAt .wa] s = some t ∧ t.prev = 0 ∧ t.fsm = .idle ∧
      t.events = s.events ++ [.rd v]) ∧
    (∃ t, runTrace [.pin v, .resetAt .wb] s = some t ∧ t.prev = 0 ∧ t.fsm = .idle ∧
      t.events = s.events ++ [.rd v, .wr .a (div (v.extractLsb' 0 3).toNat)]) ∧
    (∃ t, runTrace [.pin v, .resetAt .cm] s = some t ∧ t.prev = 0 ∧ t.fsm = .idle ∧
      t.events = s.events ++
        [.rd v, .wr .a (div (v.extractLsb' 0 3).toNat), .wr .b (div (v.extractLsb' 3 3).toNat)])

/-- 70_reset_and_hazards.md R138: moving one channel among the codes 1, 6 and 7 is a detected change that rewrites both
registers with the values they hold, and PREV takes the new snapshot. -/
def Obligations.AliasedCodesRewriteTheSameValues : Prop :=
  ∀ (s : State) (v : Byte) (x y : Channel), x ≠ y → s.fsm = .idle → synchronised s → s.prev.extractLsb' 6 2 = 0 →
    codeOf x (snapshot s.prev) ∈ [1, 6, 7] → codeOf x (snapshot v) ∈ [1, 6, 7] →
    codeOf x (snapshot v) ≠ codeOf x (snapshot s.prev) → codeOf y (snapshot v) = codeOf y (snapshot s.prev) →
    ∃ t, runTrace [.pin v] s = some t ∧ t.ocra = s.ocra ∧ t.ocrb = s.ocrb ∧ t.prev = v &&& 0x3F ∧
      t.events = s.events ++ [.rd v, .wr .a s.ocra, .wr .b s.ocrb]

/-- 70_reset_and_hazards.md R130, R131: whatever run of snapshots bouncing pins give, once they have settled on a value the
two registers and PREV are that value's. -/
def Obligations.BouncingPinsSettle : Prop :=
  ∀ (s : State) (vs : List Byte) (w : Byte), s.fsm = .idle → synchronised s → s.prev.extractLsb' 6 2 = 0 →
    ∃ t, runTrace (vs.map .pin ++ [.pin w]) s = some t ∧ t.fsm = .idle ∧ t.prev = w &&& 0x3F ∧
      t.ocra = div (w.extractLsb' 0 3).toNat ∧ t.ocrb = div (w.extractLsb' 3 3).toNat

/-- 30_encoding.md R60: a legal trace ends in IDLE, and the values its reads return are its encoding, one read for each PIN
item. THE MODEL'S READING, DEDUCED (log 10): a trace that is not legal, to which the spec gives no meaning, is not run at
all, so that a trace runs exactly if it is legal. -/
def Obligations.TraceDrivesOneIterationPerPin : Prop :=
  ∀ (items : List TraceItem) (s : State), s.fsm = .idle →
    ((runTrace items s).isSome = traceLegal s.prev items) ∧
    ∀ t, runTrace items s = some t →
      t.fsm = .idle ∧ t.env = s.env ∧ readValues t.events = readValues s.events ++ traceBytes items ∧
      readCount t.events = readCount s.events + (traceBytes items).length

/-- THE MODEL'S CHOICE (log 14) of the encoding that 10_state.md R15 suggests and does not require (decision D7): the
fused 2-bit state register, a view that no operation uses, has the codes 0 to 3, all four, and each names one state and
position. -/
def Obligations.FusedStateCodesAreAllUsed : Prop :=
  (∀ c : BitVec 2, stCode (ofStCode c).1 (ofStCode c).2 = c) ∧
  (∀ p : Phase, stCode .idle p = 0 ∧ ofStCode (stCode .applying p) = (.applying, p)) ∧
  stCode .applying .wa = 1 ∧ stCode .applying .wb = 2 ∧ stCode .applying .cm = 3

/-- 70_reset_and_hazards.md R140 (non-normative, decision D1; that the four parameters are open constants is the model's
choice, log 11): over any run of scheduled operations with no reset each operation costs at least one cycle, and the
cycles are T_POLL for each read made, T_WA for each write of OCRA, T_WB for each write of OCRB and T_CM for each COMMIT:
one for each write of OCRB, less one where the run ends before it, more one where the run starts right before it. One
whole iteration costs T_POLL if the snapshot is PREV and all four parameters if it is not. -/
def Obligations.EveryOperationTakesACycle : Prop :=
  (∀ (n : Nat) (s : State), noResetFor n s.env = true → n ≤ runCycles n s) ∧
  (∀ (n : Nat) (s : State), noResetFor n s.env = true →
    runCycles n s + readCount s.events * Config.tPoll + writeCount .a s.events * Config.tWa +
        writeCount .b s.events * (Config.tWb + Config.tCm) +
        (if selectedOp (stepMany n s) = .commit then Config.tCm else 0) =
      readCount (stepMany n s).events * Config.tPoll + writeCount .a (stepMany n s).events * Config.tWa +
        writeCount .b (stepMany n s).events * (Config.tWb + Config.tCm) +
        (if selectedOp s = .commit then Config.tCm else 0)) ∧
  ∀ (s : State) (v : Byte), s.fsm = .idle → ∃ slots, traceSlots s.prev [.pin v] = some slots ∧
    runCycles slots.length { s with env := slots ++ s.env } = iterationCycles v s.prev ∧
    (v &&& 0x3F = s.prev → iterationCycles v s.prev = Config.tPoll) ∧
    (v &&& 0x3F ≠ s.prev → iterationCycles v s.prev = Config.tPoll + Config.tWa + Config.tWb + Config.tCm)
end

