-- ==== Sys2Proof/Laws/Decode.lean ====
section
/-! SUPPORT. What the encodings do, once each: the mask and the fields (30_encoding.md R51, R52), the rows (R55), and the
small facts about `zext8` and CHANGED that the state machine needs. -/

namespace Sys2Proof

/-- The snapshot of a byte as the 8-bit value that is compared and stored is the byte under the mask (30_encoding.md
R51). -/
theorem zext8_snapshot (v : Byte) : zext8 (snapshot v) = v &&& Config.selMask := by
  revert v; decide

/-- The cache gives back the snapshot it stores (41_poll_apply.md R83). -/
@[simp] theorem snapshot_zext8 (s : Snap) : snapshot (zext8 s) = s := by
  revert s; decide

theorem zext8_injective {s t : Snap} (h : zext8 s = zext8 t) : s = t := by
  rw [← snapshot_zext8 s, h, snapshot_zext8]

/-- Bits 7:6 of a stored snapshot are 0 (10_state.md R10). -/
@[simp] theorem zext8_high (s : Snap) : (zext8 s).extractLsb' 6 2 = 0 := by
  revert s; decide

/-- A byte whose bits 7:6 are 0 is its own snapshot, zero-extended (10_state.md R10). -/
theorem zext8_snapshot_of_high {v : Byte} (h : v.extractLsb' 6 2 = 0) : zext8 (snapshot v) = v := by
  revert v; decide

theorem codeOf_a (s : Snap) : codeOf .a s = s.extractLsb' 0 3 := rfl

theorem codeOf_b (s : Snap) : codeOf .b s = s.extractLsb' 3 3 := rfl

/-- Channel A's code straight from the byte (30_encoding.md R50). -/
theorem codeOf_a_snapshot (v : Byte) : codeOf .a (snapshot v) = v.extractLsb' 0 3 := by
  revert v; decide

/-- Channel B's code straight from the byte (30_encoding.md R50). -/
theorem codeOf_b_snapshot (v : Byte) : codeOf .b (snapshot v) = v.extractLsb' 3 3 := by
  revert v; decide

@[simp] theorem decodeOn_a (s : Snap) : decodeOn .a s = rowA (codeOf .a s) := rfl

@[simp] theorem decodeOn_b (s : Snap) : decodeOn .b s = rowB (codeOf .b s) := rfl

/-- Channel A's row of a code has that code (30_encoding.md R55). -/
@[simp] theorem rowA_code (c : Code) : (rowA c).code = c := by
  revert c; decide

@[simp] theorem rowB_code (c : Code) : (rowB c).code = c := by
  revert c; decide

@[simp] theorem rowA_channel (c : Code) : (rowA c).channel = .a := by
  revert c; decide

@[simp] theorem rowB_channel (c : Code) : (rowB c).channel = .b := by
  revert c; decide

/-- An instruction of channel A is the row of its code (30_encoding.md R55). -/
theorem rowA_of_channel {i : Instr} (h : i.channel = .a) : rowA i.code = i := by
  cases i <;> first | rfl | cases h

theorem rowB_of_channel {i : Instr} (h : i.channel = .b) : rowB i.code = i := by
  cases i <;> first | rfl | cases h

/-- Two snapshots with the same codes are one snapshot (30_encoding.md R52: `s` is the two codes side by side). -/
theorem snap_ext {s t : Snap} (ha : codeOf .a s = codeOf .a t) (hb : codeOf .b s = codeOf .b t) : s = t := by
  simp only [codeOf_a, codeOf_b] at ha hb
  have h : ∀ u : Snap, u.extractLsb' 3 3 ++ u.extractLsb' 0 3 = u := by decide
  rw [← h s, ha, hb, h t]

end Sys2Proof

namespace Sys2Proof.Machine

/-- CHANGED is the inequality of the zero-extended snapshot and PREV (10_state.md R16). -/
theorem changed_iff (s : Snap) (p : Byte) : changed s p = true ↔ zext8 s ≠ p := by
  simp [changed]

theorem not_changed_iff (s : Snap) (p : Byte) : changed s p = false ↔ zext8 s = p := by
  simp [changed]

end Sys2Proof.Machine
end

