-- ==== Sys2Proof/Laws/State.lean ====
section
/-! SUPPORT. One lemma per field per update of the state, each true by rfl, so that no later proof unfolds a record
update. -/

namespace Sys2Proof.Machine

/-! ### The environment's move -/

@[simp] theorem tick_prev (s : State) : (s.tick).prev = s.prev := rfl

@[simp] theorem tick_snap (s : State) : (s.tick).snap = s.snap := rfl

@[simp] theorem tick_fsm (s : State) : (s.tick).fsm = s.fsm := rfl

@[simp] theorem tick_phase (s : State) : (s.tick).phase = s.phase := rfl

@[simp] theorem tick_pin (s : State) : (s.tick).pin = pinAfter s.nextSlot s.pin := rfl

@[simp] theorem tick_ocra (s : State) : (s.tick).ocra = s.ocra := rfl

@[simp] theorem tick_ocrb (s : State) : (s.tick).ocrb = s.ocrb := rfl

@[simp] theorem tick_events (s : State) : (s.tick).events = s.events := rfl

@[simp] theorem tick_env (s : State) : (s.tick).env = s.env.tail := rfl

@[simp] theorem tick_draws (s : State) : (s.tick).draws = s.draws + 1 := rfl

/-! ### An event -/

@[simp] theorem emit_prev (e : Event) (s : State) : (s.emit e).prev = s.prev := rfl

@[simp] theorem emit_snap (e : Event) (s : State) : (s.emit e).snap = s.snap := rfl

@[simp] theorem emit_fsm (e : Event) (s : State) : (s.emit e).fsm = s.fsm := rfl

@[simp] theorem emit_phase (e : Event) (s : State) : (s.emit e).phase = s.phase := rfl

@[simp] theorem emit_pin (e : Event) (s : State) : (s.emit e).pin = s.pin := rfl

@[simp] theorem emit_ocra (e : Event) (s : State) : (s.emit e).ocra = s.ocra := rfl

@[simp] theorem emit_ocrb (e : Event) (s : State) : (s.emit e).ocrb = s.ocrb := rfl

@[simp] theorem emit_events (e : Event) (s : State) : (s.emit e).events = s.events ++ [e] := rfl

@[simp] theorem emit_env (e : Event) (s : State) : (s.emit e).env = s.env := rfl

@[simp] theorem emit_draws (e : Event) (s : State) : (s.emit e).draws = s.draws := rfl

/-! ### The read of PIN -/

@[simp] theorem memReadPin_prev (s : State) : (memReadPin s).prev = s.prev := rfl

@[simp] theorem memReadPin_snap (s : State) : (memReadPin s).snap = s.snap := rfl

@[simp] theorem memReadPin_fsm (s : State) : (memReadPin s).fsm = s.fsm := rfl

@[simp] theorem memReadPin_phase (s : State) : (memReadPin s).phase = s.phase := rfl

@[simp] theorem memReadPin_pin (s : State) : (memReadPin s).pin = s.pin := rfl

@[simp] theorem memReadPin_ocra (s : State) : (memReadPin s).ocra = s.ocra := rfl

@[simp] theorem memReadPin_ocrb (s : State) : (memReadPin s).ocrb = s.ocrb := rfl

@[simp] theorem memReadPin_events (s : State) : (memReadPin s).events = s.events ++ [.rd s.pin] := rfl

@[simp] theorem memReadPin_env (s : State) : (memReadPin s).env = s.env := rfl

@[simp] theorem memReadPin_draws (s : State) : (memReadPin s).draws = s.draws := rfl

/-! ### The write of OCRA -/

@[simp] theorem memWriteOcrA_prev (d : Byte) (s : State) : (memWriteOcr .a d s).prev = s.prev := rfl

@[simp] theorem memWriteOcrA_snap (d : Byte) (s : State) : (memWriteOcr .a d s).snap = s.snap := rfl

@[simp] theorem memWriteOcrA_fsm (d : Byte) (s : State) : (memWriteOcr .a d s).fsm = s.fsm := rfl

@[simp] theorem memWriteOcrA_phase (d : Byte) (s : State) : (memWriteOcr .a d s).phase = s.phase := rfl

@[simp] theorem memWriteOcrA_pin (d : Byte) (s : State) : (memWriteOcr .a d s).pin = s.pin := rfl

@[simp] theorem memWriteOcrA_ocra (d : Byte) (s : State) : (memWriteOcr .a d s).ocra = d := rfl

@[simp] theorem memWriteOcrA_ocrb (d : Byte) (s : State) : (memWriteOcr .a d s).ocrb = s.ocrb := rfl

@[simp] theorem memWriteOcrA_events (d : Byte) (s : State) : (memWriteOcr .a d s).events = s.events ++ [.wr .a d] := rfl

@[simp] theorem memWriteOcrA_env (d : Byte) (s : State) : (memWriteOcr .a d s).env = s.env := rfl

@[simp] theorem memWriteOcrA_draws (d : Byte) (s : State) : (memWriteOcr .a d s).draws = s.draws := rfl

/-! ### The write of OCRB -/

@[simp] theorem memWriteOcrB_prev (d : Byte) (s : State) : (memWriteOcr .b d s).prev = s.prev := rfl

@[simp] theorem memWriteOcrB_snap (d : Byte) (s : State) : (memWriteOcr .b d s).snap = s.snap := rfl

@[simp] theorem memWriteOcrB_fsm (d : Byte) (s : State) : (memWriteOcr .b d s).fsm = s.fsm := rfl

@[simp] theorem memWriteOcrB_phase (d : Byte) (s : State) : (memWriteOcr .b d s).phase = s.phase := rfl

@[simp] theorem memWriteOcrB_pin (d : Byte) (s : State) : (memWriteOcr .b d s).pin = s.pin := rfl

@[simp] theorem memWriteOcrB_ocra (d : Byte) (s : State) : (memWriteOcr .b d s).ocra = s.ocra := rfl

@[simp] theorem memWriteOcrB_ocrb (d : Byte) (s : State) : (memWriteOcr .b d s).ocrb = d := rfl

@[simp] theorem memWriteOcrB_events (d : Byte) (s : State) : (memWriteOcr .b d s).events = s.events ++ [.wr .b d] := rfl

@[simp] theorem memWriteOcrB_env (d : Byte) (s : State) : (memWriteOcr .b d s).env = s.env := rfl

@[simp] theorem memWriteOcrB_draws (d : Byte) (s : State) : (memWriteOcr .b d s).draws = s.draws := rfl

/-! ### WRITE_A -/

@[simp] theorem writeChannelA_prev (d : Byte) (s : State) : (writeChannel .a d s).prev = s.prev := rfl

@[simp] theorem writeChannelA_snap (d : Byte) (s : State) : (writeChannel .a d s).snap = s.snap := rfl

@[simp] theorem writeChannelA_fsm (d : Byte) (s : State) : (writeChannel .a d s).fsm = s.fsm := rfl

@[simp] theorem writeChannelA_phase (d : Byte) (s : State) : (writeChannel .a d s).phase = .wb := rfl

@[simp] theorem writeChannelA_pin (d : Byte) (s : State) : (writeChannel .a d s).pin = s.pin := rfl

@[simp] theorem writeChannelA_ocra (d : Byte) (s : State) : (writeChannel .a d s).ocra = d := rfl

@[simp] theorem writeChannelA_ocrb (d : Byte) (s : State) : (writeChannel .a d s).ocrb = s.ocrb := rfl

@[simp] theorem writeChannelA_events (d : Byte) (s : State) : (writeChannel .a d s).events = s.events ++ [.wr .a d] := rfl

@[simp] theorem writeChannelA_env (d : Byte) (s : State) : (writeChannel .a d s).env = s.env := rfl

@[simp] theorem writeChannelA_draws (d : Byte) (s : State) : (writeChannel .a d s).draws = s.draws := rfl

/-! ### WRITE_B -/

@[simp] theorem writeChannelB_prev (d : Byte) (s : State) : (writeChannel .b d s).prev = s.prev := rfl

@[simp] theorem writeChannelB_snap (d : Byte) (s : State) : (writeChannel .b d s).snap = s.snap := rfl

@[simp] theorem writeChannelB_fsm (d : Byte) (s : State) : (writeChannel .b d s).fsm = s.fsm := rfl

@[simp] theorem writeChannelB_phase (d : Byte) (s : State) : (writeChannel .b d s).phase = .cm := rfl

@[simp] theorem writeChannelB_pin (d : Byte) (s : State) : (writeChannel .b d s).pin = s.pin := rfl

@[simp] theorem writeChannelB_ocra (d : Byte) (s : State) : (writeChannel .b d s).ocra = s.ocra := rfl

@[simp] theorem writeChannelB_ocrb (d : Byte) (s : State) : (writeChannel .b d s).ocrb = d := rfl

@[simp] theorem writeChannelB_events (d : Byte) (s : State) : (writeChannel .b d s).events = s.events ++ [.wr .b d] := rfl

@[simp] theorem writeChannelB_env (d : Byte) (s : State) : (writeChannel .b d s).env = s.env := rfl

@[simp] theorem writeChannelB_draws (d : Byte) (s : State) : (writeChannel .b d s).draws = s.draws := rfl

/-! ### COMMIT -/

@[simp] theorem commit_prev (s : State) : (commit s).prev = zext8 s.snap := rfl

@[simp] theorem commit_snap (s : State) : (commit s).snap = s.snap := rfl

@[simp] theorem commit_fsm (s : State) : (commit s).fsm = .idle := rfl

@[simp] theorem commit_phase (s : State) : (commit s).phase = s.phase := rfl

@[simp] theorem commit_pin (s : State) : (commit s).pin = s.pin := rfl

@[simp] theorem commit_ocra (s : State) : (commit s).ocra = s.ocra := rfl

@[simp] theorem commit_ocrb (s : State) : (commit s).ocrb = s.ocrb := rfl

@[simp] theorem commit_events (s : State) : (commit s).events = s.events := rfl

@[simp] theorem commit_env (s : State) : (commit s).env = s.env := rfl

@[simp] theorem commit_draws (s : State) : (commit s).draws = s.draws := rfl

/-! ### RESET -/

@[simp] theorem takeReset_prev (s : State) : (takeReset s).prev = Config.prevReset := rfl

@[simp] theorem takeReset_snap (s : State) : (takeReset s).snap = Config.snapReset s.draws := rfl

@[simp] theorem takeReset_fsm (s : State) : (takeReset s).fsm = .idle := rfl

@[simp] theorem takeReset_phase (s : State) : (takeReset s).phase = Config.phaseReset s.draws := rfl

@[simp] theorem takeReset_pin (s : State) : (takeReset s).pin = s.pin := rfl

@[simp] theorem takeReset_ocra (s : State) : (takeReset s).ocra = Config.ocraReset s.draws := rfl

@[simp] theorem takeReset_ocrb (s : State) : (takeReset s).ocrb = Config.ocrbReset s.draws := rfl

@[simp] theorem takeReset_events (s : State) : (takeReset s).events = s.events := rfl

@[simp] theorem takeReset_env (s : State) : (takeReset s).env = s.env := rfl

@[simp] theorem takeReset_draws (s : State) : (takeReset s).draws = s.draws := rfl

end Sys2Proof.Machine
end

