-- ==== Sys2Proof/Laws/Ops.lean ====
section
/-! SUPPORT. What each shared operation can do, once: later proofs cite these and do not unfold. -/

namespace Sys2Proof.Machine

@[simp] theorem pinAfter_pins (v old : Byte) : pinAfter (.pins v) old = v := rfl

@[simp] theorem pinAfter_reset (old : Byte) : pinAfter .reset old = old := rfl

/-- A scheduled slot is the next one. -/
theorem nextSlot_of_env {s : State} {e : EnvSlot} {rest : List EnvSlot} (h : s.env = e :: rest) : s.nextSlot = e := by
  simp [State.nextSlot, h]

/-- With nothing scheduled the environment's slot is the free one. -/
theorem nextSlot_of_nil {s : State} (h : s.env = []) : s.nextSlot = freeSlot s.draws := by
  simp [State.nextSlot, h]

/-- Each reset that fires brings the block's next operation one slot nearer. -/
theorem freeGap_add (n r k : Nat) (h : (freeGap n).2 = r + k) : (freeGap (n + k)).2 = r := by
  induction k generalizing n with
  | zero => simpa using h
  | succ k ih =>
    rw [show n + (k + 1) = (n + 1) + k by omega]
    refine ih (n + 1) ?_
    rcases hg : freeGap n with ⟨i, _ | m⟩
    · simp [hg] at h
    · simp only [freeGap, hg] at h ⊢
      omega

/-- From every slot on, the free environment lets the block take an operation after finitely many resets
(41_poll_apply.md R93). -/
theorem freeSlot_fair (n : Nat) : ∃ m v, n ≤ m ∧ freeSlot m = .pins v := by
  refine ⟨n + (freeGap n).2, Config.pinDraw (n + (freeGap n).2), by omega, ?_⟩
  rw [freeSlot, freeGap_add n 0 _ (by simp)]

/-- POLL that finds no change has its event and nothing else (41_poll_apply.md R80). -/
theorem poll_same {s : State} (h : zext8 (snapshot s.pin) = s.prev) : poll s = s.emit (.rd s.pin) := by
  simp [poll, memReadPin, (not_changed_iff _ _).2 h]

/-- POLL that finds a change latches the snapshot and enters APPLYING at WA (41_poll_apply.md R80). -/
theorem poll_diff {s : State} (h : zext8 (snapshot s.pin) ≠ s.prev) :
    poll s = { s.emit (.rd s.pin) with snap := snapshot s.pin, fsm := .applying, phase := .wa } := by
  simp [poll, memReadPin, (changed_iff _ _).2 h]

/-- The three conditions of "applied" (40_divisor_table.md, before section 1). -/
theorem applied_iff (x : Channel) (c : Code) (s : State) :
    applied x c s = true ↔ s.fsm = .applying ∧ s.phase = writePhase x ∧ s.code x = c := by
  simp [applied, and_assoc]

/-- An applied code is its channel's WRITE with the table's divisor (41_poll_apply.md R81, R82). -/
theorem applyCode_applied {x : Channel} {c : Code} {s : State} (h : applied x c s = true) :
    applyCode x c s = writeChannel x (divCode c) s := by
  simp [applyCode, h]

/-- A code that is not applied does nothing (30_encoding.md R57). -/
theorem applyCode_idle {x : Channel} {c : Code} {s : State} (h : applied x c s = false) : applyCode x c s = s := by
  simp [applyCode, h]

/-- Every instruction is its channel's effect at its code (40_divisor_table.md R66 to R73). -/
theorem exec_eq (i : Instr) (s : State) : exec i s = .next (applyCode i.channel i.code s) := by
  cases i <;> rfl

/-- All a code's effect can do: nothing, or the one write and the move of PHASE (40_divisor_table.md R66 to R73). -/
theorem applyCode_cases (x : Channel) (c : Code) (s : State) :
    applyCode x c s = s ∨ applyCode x c s = writeChannel x (divCode c) s := by
  unfold applyCode
  split
  · exact .inr rfl
  · exact .inl rfl

end Sys2Proof.Machine
end

