-- ==== Sys2Proof/Laws/PerInstr.lean ====
section
/-! SUPPORT. One fact about every instruction as syntax, lemma by lemma: its row's match lies inside its channel's mask
and is its code placed at the channel's field (30_encoding.md R55, spec/opcode_table.json). -/

namespace Sys2Proof.Laws.RowMatch

/-- The row of an instruction is what its channel and code make it (30_encoding.md R55). -/
def Statement (i : Instr) : Prop :=
  i.matchBits &&& i.maskBits = i.matchBits ∧ codeOf i.channel (snapshot i.matchBits) = i.code ∧
    i.matchBits.toNat = (match i.channel with | .a => 1 | .b => 8) * i.code.toNat

theorem aRate4800 : Statement .aRate4800 := by
  unfold Statement; decide

theorem aRate9600 : Statement .aRate9600 := by
  unfold Statement; decide

theorem aRate19200 : Statement .aRate19200 := by
  unfold Statement; decide

theorem aRate38400 : Statement .aRate38400 := by
  unfold Statement; decide

theorem aRate57600 : Statement .aRate57600 := by
  unfold Statement; decide

theorem aRate115200 : Statement .aRate115200 := by
  unfold Statement; decide

theorem aDef6 : Statement .aDef6 := by
  unfold Statement; decide

theorem aDef7 : Statement .aDef7 := by
  unfold Statement; decide

theorem bRate4800 : Statement .bRate4800 := by
  unfold Statement; decide

theorem bRate9600 : Statement .bRate9600 := by
  unfold Statement; decide

theorem bRate19200 : Statement .bRate19200 := by
  unfold Statement; decide

theorem bRate38400 : Statement .bRate38400 := by
  unfold Statement; decide

theorem bRate57600 : Statement .bRate57600 := by
  unfold Statement; decide

theorem bRate115200 : Statement .bRate115200 := by
  unfold Statement; decide

theorem bDef6 : Statement .bDef6 := by
  unfold Statement; decide

theorem bDef7 : Statement .bDef7 := by
  unfold Statement; decide

end Sys2Proof.Laws.RowMatch
end

