-- ==== Sys2Proof/Laws/Step.lean ====
section
/-! SUPPORT. What one step can do, once: an equation for each operation, and the case analysis that every invariant
starts from (41_poll_apply.md R85). -/

namespace Sys2Proof.Machine

theorem step_reset {s : State} (h : s.nextSlot = .reset) : step s = .next (takeReset s.tick) := by
  simp [step, h]

theorem step_poll {s : State} {v : Byte} (h : s.nextSlot = .pins v) (hf : s.fsm = .idle) :
    step s = .next (poll s.tick) := by
  simp [step, h, selectedOp, hf]

/-- At WA a step is WRITE_A with the latched snapshot's divisor (41_poll_apply.md R81). -/
theorem step_writeA {s : State} {v : Byte} (h : s.nextSlot = .pins v) (hf : s.fsm = .applying) (hp : s.phase = .wa) :
    step s = .next (writeChannel .a (s.divisor .a) s.tick) := by
  have ha : applied .a (codeOf .a s.snap) s.tick = true := by
    simp [applied_iff, hf, hp, writePhase, State.code]
  simp only [step, h, selectedOp, hf, hp, decodeOn_a, exec_eq, rowA_channel, rowA_code, applyCode_applied ha]
  rfl

/-- At WB a step is WRITE_B with the latched snapshot's divisor (41_poll_apply.md R82). -/
theorem step_writeB {s : State} {v : Byte} (h : s.nextSlot = .pins v) (hf : s.fsm = .applying) (hp : s.phase = .wb) :
    step s = .next (writeChannel .b (s.divisor .b) s.tick) := by
  have hb : applied .b (codeOf .b s.snap) s.tick = true := by
    simp [applied_iff, hf, hp, writePhase, State.code]
  simp only [step, h, selectedOp, hf, hp, decodeOn_b, exec_eq, rowB_channel, rowB_code, applyCode_applied hb]
  rfl

theorem step_commit {s : State} {v : Byte} (h : s.nextSlot = .pins v) (hf : s.fsm = .applying) (hp : s.phase = .cm) :
    step s = .next (commit s.tick) := by
  simp [step, h, selectedOp, hf, hp]

@[simp] theorem performedOp_reset {s : State} (h : s.nextSlot = .reset) : performedOp s = .reset := by
  simp [performedOp, h]

@[simp] theorem performedOp_pins {s : State} {v : Byte} (h : s.nextSlot = .pins v) : performedOp s = selectedOp s := by
  simp [performedOp, h]

/-- All a step can do (41_poll_apply.md R85): RESET, or the one operation FSM and PHASE name. -/
theorem step_shape (s : State) :
    (s.nextSlot = .reset ∧ step s = .next (takeReset s.tick)) ∨
    ∃ v, s.nextSlot = .pins v ∧
      ((s.fsm = .idle ∧ step s = .next (poll s.tick)) ∨
       (s.fsm = .applying ∧ s.phase = .wa ∧ step s = .next (writeChannel .a (s.divisor .a) s.tick)) ∨
       (s.fsm = .applying ∧ s.phase = .wb ∧ step s = .next (writeChannel .b (s.divisor .b) s.tick)) ∨
       (s.fsm = .applying ∧ s.phase = .cm ∧ step s = .next (commit s.tick))) := by
  cases h : s.nextSlot with
  | reset => exact .inl ⟨rfl, step_reset h⟩
  | pins v =>
    refine .inr ⟨v, rfl, ?_⟩
    cases hf : s.fsm with
    | idle => exact .inl ⟨rfl, step_poll h hf⟩
    | applying =>
      cases hp : s.phase with
      | wa => exact .inr (.inl ⟨rfl, rfl, step_writeA h hf hp⟩)
      | wb => exact .inr (.inr (.inl ⟨rfl, rfl, step_writeB h hf hp⟩))
      | cm => exact .inr (.inr (.inr ⟨rfl, rfl, step_commit h hf hp⟩))

end Sys2Proof.Machine
end

