-- ==== Sys2Proof/Laws/Trace.lean ====
section
/-! SUPPORT. Running many steps, and what a trace's schedule is made of. -/

namespace Sys2Proof.Machine

@[simp] theorem stepMany_zero (s : State) : stepMany 0 s = s := rfl

/-- One step of a run, once it is known what the step answers. -/
theorem stepMany_succ {s t : State} (n : Nat) (h : step s = .next t) : stepMany (n + 1) s = stepMany n t := by
  simp [stepMany, h]

@[simp] theorem runCycles_zero (s : State) : runCycles 0 s = 0 := rfl

/-- The cycles of a run are those of its first operation and of the rest (70_reset_and_hazards.md R140). -/
theorem runCycles_succ {s t : State} (n : Nat) (h : step s = .next t) :
    runCycles (n + 1) s = opCycles (performedOp s) + runCycles n t := by
  simp [runCycles, stepMany_succ 0 h]

@[simp] theorem blockOps_zero (s : State) : blockOps 0 s = 0 := rfl

/-- The operations of the block in a run are its first step's and the rest's (41_poll_apply.md R93). -/
theorem blockOps_succ {s t : State} (n : Nat) (h : step s = .next t) :
    blockOps (n + 1) s = (if performedOp s = .reset then 0 else 1) + blockOps n t := by
  simp [blockOps, stepMany_succ 0 h]

/-- No step faults or refuses (60_exceptions.md R100), so a run goes on. -/
theorem step_next (s : State) : ∃ t, step s = .next t := by
  rcases step_shape s with ⟨-, h⟩ | ⟨v, -, ⟨-, h⟩ | ⟨-, -, h⟩ | ⟨-, -, h⟩ | ⟨-, -, h⟩⟩ <;> exact ⟨_, h⟩

theorem stepMany_add (m n : Nat) (s : State) : stepMany (m + n) s = stepMany n (stepMany m s) := by
  induction m generalizing s with
  | zero => simp
  | succ m ih =>
    obtain ⟨t, h⟩ := step_next s
    rw [show m + 1 + n = (m + n) + 1 by omega, stepMany_succ _ h, stepMany_succ _ h, ih]

@[simp] theorem traceBytes_append (a b : List TraceItem) : traceBytes (a ++ b) = traceBytes a ++ traceBytes b := by
  simp [traceBytes]

@[simp] theorem traceBytes_pin (v : Byte) (t : List TraceItem) : traceBytes (.pin v :: t) = v :: traceBytes t := rfl

@[simp] theorem traceBytes_replicate (n : Nat) (v : Byte) :
    traceBytes (List.replicate n (.pin v)) = List.replicate n v := by
  induction n with
  | zero => rfl
  | succ n ih => rw [List.replicate_succ, List.replicate_succ, traceBytes_pin, ih]

/-- Repeating the byte last presented, also no times, leaves it the last (30_encoding.md R61). -/
theorem lastByte_replicate (n : Nat) (v : Byte) : (List.replicate n v).getLast?.getD v = v := by
  cases n <;> simp [List.getLast?_replicate]

/-- What a written trace expands to is what its first lines do, then what the others do with the byte last presented
(30_encoding.md R61). -/
theorem expandLines_append (last : Option Byte) (ls rest : List TraceLine) :
    expandLines last (ls ++ rest) = (expandLines last ls).bind fun items =>
      (expandLines ((traceBytes items).getLast?.or last) rest).map (items ++ ·) := by
  induction ls generalizing last with
  | nil => simp [expandLines, traceBytes]
  | cons line ls ih =>
    cases line with
    | item i =>
      cases i <;>
        simp [expandLines, ih, Option.map_bind, Option.bind_map, Function.comp_def, traceBytes, itemByte]
    | sel a b =>
      simp only [expandLines, List.cons_append]
      split <;> simp [ih, Option.map_bind, Option.bind_map, Function.comp_def, List.getLast?_cons]
    | selRate ra rb =>
      simp only [expandLines, List.cons_append]
      split <;> simp [ih, Option.map_bind, Option.bind_map, Function.comp_def, List.getLast?_cons]
    | hold n =>
      cases last <;>
        simp [expandLines, ih, Option.map_bind, Option.bind_map, Function.comp_def, lastByte_replicate]

/-- A trace that has a schedule runs it to its end (30_encoding.md R60). -/
theorem runTrace_of_slots {t : List TraceItem} {s : State} {slots : List EnvSlot}
    (h : traceSlots s.prev t = some slots) :
    runTrace t s = some (stepMany slots.length { s with env := slots ++ s.env }) := by
  simp [runTrace, h]

/-- A `PIN` item whose snapshot is PREV already is one POLL (30_encoding.md R60). -/
theorem traceSlots_pin_same {v prev : Byte} (h : zext8 (snapshot v) = prev) (vs : List Byte) :
    traceSlots prev (.pin v :: vs.map .pin) = (traceSlots prev (vs.map .pin)).map (.pins v :: ·) := by
  cases vs <;> simp [traceSlots, (not_changed_iff _ _).2 h]

/-- A `PIN` item whose snapshot is new is a whole iteration of four operations (30_encoding.md R60). -/
theorem traceSlots_pin_diff {v prev : Byte} (h : zext8 (snapshot v) ≠ prev) (vs : List Byte) :
    traceSlots prev (.pin v :: vs.map .pin) =
      (traceSlots (zext8 (snapshot v)) (vs.map .pin)).map (List.replicate 4 (.pins v) ++ ·) := by
  cases vs <;> simp [traceSlots, (changed_iff _ _).2 h]

end Sys2Proof.Machine
end

