-- ==== Sys2Proof/Tests/Slice0.lean ====
section
/-! SUPPORT. Small tests: ill-formed terms refused, words written out from 30_encoding.md R55, one step of each operation
and each instruction with the results of 95_test_vectors.md, and for every statement that has hypotheses a concrete state
and operands that meet them together (witness_<its name>). -/

namespace Sys2Proof.Tests

open Sys2Proof.Machine

/-- A state with the given registers, no event so far and the given schedule. -/
def st (prev : Byte) (snap : Snap) (fsm : Fsm) (phase : Phase) (ocra ocrb : Byte) (env : List EnvSlot) : State :=
  { prev, snap, fsm, phase, pin := 0, ocra, ocrb, events := [], env, draws := 0 }

/-- The state a step answers. -/
def after (s : State) : Option State :=
  match step s with
  | .next t => some t
  | .fault _ => none
  | .refused _ => none

/-! ### Ill-formed terms are refused -/

theorem test_wf_refuses_swapped_word : Word8.wf ⟨.bRate4800, .aRate4800⟩ = false := by decide

theorem test_wf_refuses_two_instructions_of_a : Word8.wf ⟨.aDef6, .aDef7⟩ = false := by decide

theorem test_wf_refuses_code_8 : linesWf false [.sel 8 0] = false := by decide

theorem test_wf_refuses_unknown_rate : linesWf false [.selRate 9600 2400] = false := by decide

theorem test_wf_refuses_hold_with_no_pin : linesWf false [.item .reset, .hold 2] = false := by decide

theorem test_wf_accepts_hold_after_sel : linesWf false [.sel 7 7, .hold 2] = true := by decide

theorem test_trace_refuses_reset_at_wa_first : traceLegal 0 [.resetAt .wa] = false := by decide

theorem test_trace_refuses_reset_at_wb_after_no_change : traceLegal 0x29 [.pin 0x69, .resetAt .wb] = false := by decide

theorem test_trace_accepts_reset_at_cm_after_change : traceLegal 0x29 [.pin 0x13, .resetAt .cm] = true := by decide

/-! ### Words written out from 30_encoding.md R55, bit by bit: bits 7:6 free, B in 5:3, A in 2:0 -/

theorem test_decode_aRate4800 : (decode 0b00101000).onA = .aRate4800 := by decide

theorem test_decode_aRate9600 : (decode 0b01000001).onA = .aRate9600 := by decide

theorem test_decode_aRate19200 : (decode 0b10011010).onA = .aRate19200 := by decide

theorem test_decode_aRate38400 : (decode 0b11110011).onA = .aRate38400 := by decide

theorem test_decode_aRate57600 : (decode 0b00001100).onA = .aRate57600 := by decide

theorem test_decode_aRate115200 : (decode 0b01100101).onA = .aRate115200 := by decide

theorem test_decode_aDef6 : (decode 0b10111110).onA = .aDef6 := by decide

theorem test_decode_aDef7 : (decode 0b11010111).onA = .aDef7 := by decide

theorem test_decode_bRate4800 : (decode 0b11000010).onB = .bRate4800 := by decide

theorem test_decode_bRate9600 : (decode 0b01001111).onB = .bRate9600 := by decide

theorem test_decode_bRate19200 : (decode 0b00010100).onB = .bRate19200 := by decide

theorem test_decode_bRate38400 : (decode 0b10011001).onB = .bRate38400 := by decide

theorem test_decode_bRate57600 : (decode 0b11100110).onB = .bRate57600 := by decide

theorem test_decode_bRate115200 : (decode 0b01101011).onB = .bRate115200 := by decide

theorem test_decode_bDef6 : (decode 0b00110000).onB = .bDef6 := by decide

theorem test_decode_bDef7 : (decode 0b10111101).onB = .bDef7 := by decide

theorem test_decode_no_byte : decodeFirst [] = .error .noByte := by rfl

/-! ### Each instruction runs as one step (40_divisor_table.md R66 to R73) -/

theorem test_step_aRate4800 : (after (st 0xFF 0b011000 .applying .wa 7 9 [.pins 0x00])).map
    (fun t => (t.ocra, t.ocrb, t.phase, t.events)) = some (23, 9, .wb, [.wr .a 23]) := by decide

theorem test_step_aRate9600 : (after (st 0xFF 0b100001 .applying .wa 7 9 [.pins 0x00])).map
    (fun t => (t.ocra, t.ocrb, t.phase, t.events)) = some (11, 9, .wb, [.wr .a 11]) := by decide

theorem test_step_aRate19200 : (after (st 0xFF 0b101010 .applying .wa 7 9 [.pins 0x00])).map
    (fun t => (t.ocra, t.ocrb, t.phase, t.events)) = some (5, 9, .wb, [.wr .a 5]) := by decide

theorem test_step_aRate38400 : (after (st 0xFF 0b110011 .applying .wa 7 9 [.pins 0x00])).map
    (fun t => (t.ocra, t.ocrb, t.phase, t.events)) = some (2, 9, .wb, [.wr .a 2]) := by decide

theorem test_step_aRate57600 : (after (st 0xFF 0b111100 .applying .wa 7 9 [.pins 0x00])).map
    (fun t => (t.ocra, t.ocrb, t.phase, t.events)) = some (1, 9, .wb, [.wr .a 1]) := by decide

theorem test_step_aRate115200 : (after (st 0xFF 0b000101 .applying .wa 7 9 [.pins 0x00])).map
    (fun t => (t.ocra, t.ocrb, t.phase, t.events)) = some (15, 9, .wb, [.wr .a 15]) := by decide

theorem test_step_aDef6 : (after (st 0xFF 0b001110 .applying .wa 7 9 [.pins 0x00])).map
    (fun t => (t.ocra, t.ocrb, t.phase, t.events)) = some (11, 9, .wb, [.wr .a 11]) := by decide

theorem test_step_aDef7 : (after (st 0xFF 0b010111 .applying .wa 7 9 [.pins 0x00])).map
    (fun t => (t.ocra, t.ocrb, t.phase, t.events)) = some (11, 9, .wb, [.wr .a 11]) := by decide

theorem test_step_bRate4800 : (after (st 0xFF 0b000010 .applying .wb 7 9 [.pins 0x00])).map
    (fun t => (t.ocra, t.ocrb, t.phase, t.events)) = some (7, 23, .cm, [.wr .b 23]) := by decide

theorem test_step_bRate9600 : (after (st 0xFF 0b001011 .applying .wb 7 9 [.pins 0x00])).map
    (fun t => (t.ocra, t.ocrb, t.phase, t.events)) = some (7, 11, .cm, [.wr .b 11]) := by decide

theorem test_step_bRate19200 : (after (st 0xFF 0b010100 .applying .wb 7 9 [.pins 0x00])).map
    (fun t => (t.ocra, t.ocrb, t.phase, t.events)) = some (7, 5, .cm, [.wr .b 5]) := by decide

theorem test_step_bRate38400 : (after (st 0xFF 0b011101 .applying .wb 7 9 [.pins 0x00])).map
    (fun t => (t.ocra, t.ocrb, t.phase, t.events)) = some (7, 2, .cm, [.wr .b 2]) := by decide

theorem test_step_bRate57600 : (after (st 0xFF 0b100110 .applying .wb 7 9 [.pins 0x00])).map
    (fun t => (t.ocra, t.ocrb, t.phase, t.events)) = some (7, 1, .cm, [.wr .b 1]) := by decide

theorem test_step_bRate115200 : (after (st 0xFF 0b101111 .applying .wb 7 9 [.pins 0x00])).map
    (fun t => (t.ocra, t.ocrb, t.phase, t.events)) = some (7, 15, .cm, [.wr .b 15]) := by decide

theorem test_step_bDef6 : (after (st 0xFF 0b110000 .applying .wb 7 9 [.pins 0x00])).map
    (fun t => (t.ocra, t.ocrb, t.phase, t.events)) = some (7, 11, .cm, [.wr .b 11]) := by decide

theorem test_step_bDef7 : (after (st 0xFF 0b111001 .applying .wb 7 9 [.pins 0x00])).map
    (fun t => (t.ocra, t.ocrb, t.phase, t.events)) = some (7, 11, .cm, [.wr .b 11]) := by decide

/-! ### The operations (95_test_vectors.md section 6, and section 4 for reset) -/

/-- V41. -/
theorem test_poll_finds_change : (after (st 0x00 0 .idle .cm 3 4 [.pins 0x29])).map
    (fun t => (t.prev, t.snap, t.fsm, t.phase, t.events)) =
      some (0x00, 0b101001, .applying, .wa, [.rd 0x29]) := by decide

/-- V46: bits 7:6 alone make no change, and SNAP keeps its dead value. -/
theorem test_poll_ignores_high_bits : (after (st 0x29 0b101001 .idle .cm 11 15 [.pins 0xE9])).map
    (fun t => (t.prev, t.snap, t.fsm, t.events)) = some (0x29, 0b101001, .idle, [.rd 0xE9]) := by decide

/-- V50: bits 7:6 of PREV are 0 although the read was 0x68. -/
theorem test_commit : (after (st 0x29 0b101000 .applying .cm 23 15 [.pins 0x68])).map
    (fun t => (t.prev, t.fsm, t.ocra, t.ocrb, t.events)) = some (0x28, .idle, 23, 15, []) := by decide

/-- V21. -/
theorem test_reset_inside_applying : (after (st 0x29 0b101001 .applying .wb 11 23 [.reset])).map
    (fun t => (t.prev, t.fsm, t.events)) = some (0x00, .idle, []) := by decide

/-- V20: after reset with the pins reading 0 nothing is written. -/
theorem test_zero_pins_after_reset : (after (st 0x00 0 .idle .wa 3 4 [.pins 0x00])).map
    (fun t => (t.prev, t.fsm, t.ocra, t.ocrb, t.events)) = some (0x00, .idle, 3, 4, [.rd 0x00]) := by decide

/-- 40_divisor_table.md R65, V9 and V10. -/
theorem test_div_outside_the_field : div 8 = 11 ∧ div 1000 = 11 ∧ div (-1) = 11 := by decide

/-- P2 of 95_test_vectors.md: its encoding. -/
theorem test_trace_bytes : (expandLines none [.sel 2 3, .item (.pin 0xC4), .sel 7 0]).map traceBytes =
    some [0x1A, 0xC4, 0x07] := by decide

/-- P1 of 95_test_vectors.md: its encoding, with HOLD after SEL with rate names and after SEL. -/
theorem test_trace_bytes_P1 : (expandLines none
    [.selRate 9600 4800, .hold 2, .selRate 4800 115200, .sel 7 7, .hold 1]).map traceBytes =
      some [0x01, 0x01, 0x01, 0x28, 0x3F, 0x3F] := by decide

/-- P3 of 95_test_vectors.md: its encoding; the reset has none. -/
theorem test_trace_bytes_P3 : (expandLines none [.item .reset, .sel 0 0, .hold 3, .sel 0 1, .sel 0 0]).map traceBytes =
    some [0x00, 0x00, 0x00, 0x00, 0x08, 0x00] := by decide

/-- 41_poll_apply.md R95: a state inside APPLYING used below; PREV 0x29, new snapshot 0x13. -/
def mid (p : Phase) (env : List EnvSlot) : State := st 0x29 0b010011 .applying p 2 5 env

/-! ### Witnesses: the hypotheses of the statements are met -/

theorem witness_Rate4800LoadsDivisor23 :
    (st 0x3F 0b111000 .applying .wa 0 0 []).fsm = .applying ∧ (st 0x3F 0b111000 .applying .wa 0 0 []).phase = .wa ∧
    (st 0x3F 0b111000 .applying .wa 0 0 []).snap.extractLsb' 0 3 = 0 ∧
    (st 0x3F 0b000111 .applying .wb 0 0 []).fsm = .applying ∧ (st 0x3F 0b000111 .applying .wb 0 0 []).phase = .wb ∧
    (st 0x3F 0b000111 .applying .wb 0 0 []).snap.extractLsb' 3 3 = 0 ∧
    (st 0 0 .idle .wa 3 4 []).fsm = .idle ∧ (st 0 0 .idle .wa 3 4 []).prev = 0 ∧
    (st 0 0 .idle .wa 3 4 [.pins 0xC0]).nextSlot = .pins 0xC0 ∧ (0xC0 : Byte).extractLsb' 0 6 = 0 := by decide

theorem witness_Rate9600LoadsDivisor11 :
    (st 0x3F 0b111001 .applying .wa 0 0 []).fsm = .applying ∧ (st 0x3F 0b111001 .applying .wa 0 0 []).phase = .wa ∧
    (st 0x3F 0b111001 .applying .wa 0 0 []).snap.extractLsb' 0 3 = 1 ∧
    (st 0x3F 0b001111 .applying .wb 0 0 []).fsm = .applying ∧ (st 0x3F 0b001111 .applying .wb 0 0 []).phase = .wb ∧
    (st 0x3F 0b001111 .applying .wb 0 0 []).snap.extractLsb' 3 3 = 1 ∧
    (st 0 0 .idle .wa 3 4 []).fsm = .idle ∧ (st 0 0 .idle .wa 3 4 []).prev = 0 := by decide

theorem witness_Rate19200LoadsDivisor5 :
    (st 0x3F 0b111010 .applying .wa 0 0 []).fsm = .applying ∧ (st 0x3F 0b111010 .applying .wa 0 0 []).phase = .wa ∧
    (st 0x3F 0b111010 .applying .wa 0 0 []).snap.extractLsb' 0 3 = 2 ∧
    (st 0x3F 0b010111 .applying .wb 0 0 []).fsm = .applying ∧ (st 0x3F 0b010111 .applying .wb 0 0 []).phase = .wb ∧
    (st 0x3F 0b010111 .applying .wb 0 0 []).snap.extractLsb' 3 3 = 2 ∧
    (st 0 0 .idle .wa 3 4 []).fsm = .idle ∧ (st 0 0 .idle .wa 3 4 []).prev = 0 := by decide

theorem witness_Rate38400LoadsDivisor2 :
    (st 0x3F 0b111011 .applying .wa 0 0 []).fsm = .applying ∧ (st 0x3F 0b111011 .applying .wa 0 0 []).phase = .wa ∧
    (st 0x3F 0b111011 .applying .wa 0 0 []).snap.extractLsb' 0 3 = 3 ∧
    (st 0x3F 0b011111 .applying .wb 0 0 []).fsm = .applying ∧ (st 0x3F 0b011111 .applying .wb 0 0 []).phase = .wb ∧
    (st 0x3F 0b011111 .applying .wb 0 0 []).snap.extractLsb' 3 3 = 3 ∧
    (st 0 0 .idle .wa 3 4 []).fsm = .idle ∧ (st 0 0 .idle .wa 3 4 []).prev = 0 := by decide

theorem witness_Rate57600LoadsDivisor1 :
    (st 0x3F 0b111100 .applying .wa 0 0 []).fsm = .applying ∧ (st 0x3F 0b111100 .applying .wa 0 0 []).phase = .wa ∧
    (st 0x3F 0b111100 .applying .wa 0 0 []).snap.extractLsb' 0 3 = 4 ∧
    (st 0x3F 0b100111 .applying .wb 0 0 []).fsm = .applying ∧ (st 0x3F 0b100111 .applying .wb 0 0 []).phase = .wb ∧
    (st 0x3F 0b100111 .applying .wb 0 0 []).snap.extractLsb' 3 3 = 4 ∧
    (st 0 0 .idle .wa 3 4 []).fsm = .idle ∧ (st 0 0 .idle .wa 3 4 []).prev = 0 := by decide

theorem witness_Rate115200LoadsDivisor15 :
    (st 0x3F 0b111101 .applying .wa 0 0 []).fsm = .applying ∧ (st 0x3F 0b111101 .applying .wa 0 0 []).phase = .wa ∧
    (st 0x3F 0b111101 .applying .wa 0 0 []).snap.extractLsb' 0 3 = 5 ∧
    (st 0x3F 0b101111 .applying .wb 0 0 []).fsm = .applying ∧ (st 0x3F 0b101111 .applying .wb 0 0 []).phase = .wb ∧
    (st 0x3F 0b101111 .applying .wb 0 0 []).snap.extractLsb' 3 3 = 5 ∧
    (st 0 0 .idle .wa 3 4 []).fsm = .idle ∧ (st 0 0 .idle .wa 3 4 []).prev = 0 := by decide

theorem witness_Code6LoadsDefaultDivisor11 :
    (st 0x3F 0b111110 .applying .wa 0 0 []).fsm = .applying ∧ (st 0x3F 0b111110 .applying .wa 0 0 []).phase = .wa ∧
    (st 0x3F 0b111110 .applying .wa 0 0 []).snap.extractLsb' 0 3 = 6 ∧
    (st 0x3F 0b110111 .applying .wb 0 0 []).fsm = .applying ∧ (st 0x3F 0b110111 .applying .wb 0 0 []).phase = .wb ∧
    (st 0x3F 0b110111 .applying .wb 0 0 []).snap.extractLsb' 3 3 = 6 ∧
    (st 0 0 .idle .wa 3 4 []).fsm = .idle ∧ (st 0 0 .idle .wa 3 4 []).prev = 0 ∧
    (st 0x01 1 .idle .cm 11 23 []).fsm = .idle ∧ (st 0x01 1 .idle .cm 11 23 []).ocr .a = 11 ∧
    (0x06 : Byte) &&& 0x3F ≠ (st 0x01 1 .idle .cm 11 23 []).prev ∧
    codeOf .a (snapshot 0x06) ∈ ([1, 6, 7] : List Code) := by decide

theorem witness_Code7LoadsDefaultDivisor11 :
    (st 0x3F 0b111111 .applying .wa 0 0 []).fsm = .applying ∧ (st 0x3F 0b111111 .applying .wa 0 0 []).phase = .wa ∧
    (st 0x3F 0b111111 .applying .wa 0 0 []).snap.extractLsb' 0 3 = 7 ∧
    (st 0x3F 0b111111 .applying .wb 0 0 []).fsm = .applying ∧ (st 0x3F 0b111111 .applying .wb 0 0 []).phase = .wb ∧
    (st 0x3F 0b111111 .applying .wb 0 0 []).snap.extractLsb' 3 3 = 7 ∧
    (st 0 0 .idle .wa 3 4 []).fsm = .idle ∧ (st 0 0 .idle .wa 3 4 []).prev = 0 ∧
    (st 0x01 1 .idle .cm 11 23 []).fsm = .idle ∧ (st 0x01 1 .idle .cm 11 23 []).ocr .a = 11 ∧
    (0x07 : Byte) &&& 0x3F ≠ (st 0x01 1 .idle .cm 11 23 []).prev ∧
    codeOf .a (snapshot 0x07) ∈ ([1, 6, 7] : List Code) := by decide

theorem witness_InstructionsTouchOnlyTheirOwnChannel :
    (∃ t, exec .bDef7 (st 0 0x38 .idle .wb 3 4 []) = .next t) ∧ ∃ t, exec .aRate9600 (st 0x29 0b000001 .applying .wa 3 4 []) = .next t ∧ t.ocra = 11 ∧ IoLoc.ocrb ≠ ocrLoc Instr.aRate9600.channel := ⟨⟨_, rfl⟩, _, rfl, rfl, by decide⟩

theorem witness_InstructionsNotAppliedDoNothing :
    (st 0 1 .idle .wa 0 0 []).fsm = .idle ∧ (st 0 1 .applying .wb 0 0 []).phase ≠ writePhase Instr.aRate9600.channel ∧
    codeOf Instr.aRate9600.channel (st 0 2 .applying .wa 0 0 []).snap ≠ Instr.aRate9600.code := by decide

theorem witness_DivisorTableOnEveryInteger :
    (-1 : Int) < 0 ∧ (5 : Int) < 6 := by decide

theorem witness_DivisorTableImage :
    (0 : Int) ≤ 5 ∧ (5 : Int) ≤ 5 ∧ div 5 = div 5 := by decide

theorem witness_OutputClockIsRateTimesMode :
    rateName 5 = some 115200 ∧ rateName 0 = some 4800 ∧ (InitDuties.mk true true true true).done = true ∧
    (st 0 0 .idle .wa 15 23 []).ocr .a = div (5 : Code).toNat ∧ (st 0 0 .idle .wa 15 23 []).ocr .b = div (0 : Code).toNat := by decide

theorem witness_DecodingIsTotalAndUnambiguous :
    Instr.aDef7.channel = .a ∧ Instr.bDef7.channel = .b := by decide

theorem witness_ByteStringsDecodeAndEncode :
    ∀ p ∈ [((3 : BitVec 2), (⟨.aDef7, .bRate4800⟩ : Word8)), (0, ⟨.aRate4800, .bDef7⟩)], p.2.wf = true := by decide

theorem witness_PseudoItemsExpand :
    (7 : Nat) ≤ 7 ∧ (7 : Nat) < 8 ∧ rateName 0 = some 4800 ∧ rateName 5 = some 115200 ∧
    itemByte .reset = none ∧ itemByte (.resetAt .cm) = none ∧ (∀ c : Code, rateName c ≠ some 2400) ∧
    expandLines none [.sel 7 7, .hold 0, .item .reset] = some [.pin 0x3F, .reset] ∧
    (traceBytes [.pin 0x3F, .reset]).getLast?.or none = some 0x3F ∧
    expandLines (some 0x29) [.item .reset] = some [.reset] ∧
    (traceBytes [.reset]).getLast?.or (some 0x29) = some 0x29 := by decide

theorem witness_PollReadsAndDetectsChange :
    (st 0x29 0 .idle .wa 0 0 [.pins 0xE9]).fsm = .idle ∧ (st 0x29 0 .idle .wa 0 0 [.pins 0xE9]).nextSlot = .pins 0xE9 ∧
    (0xE9 : Byte) &&& 0x3F = (st 0x29 0 .idle .wa 0 0 [.pins 0xE9]).prev ∧
    (0x00 : Byte) &&& 0x3F ≠ (st 0x29 0 .idle .wa 0 0 [.pins 0x00]).prev := by decide

theorem witness_WriteALoadsOcra :
    (mid .wa [.pins 1]).fsm = .applying ∧ (mid .wa [.pins 1]).phase = .wa ∧ (mid .wa [.pins 1]).nextSlot = .pins 1 := by decide

theorem witness_WriteBLoadsOcrb :
    (mid .wb [.pins 1]).fsm = .applying ∧ (mid .wb [.pins 1]).phase = .wb ∧ (mid .wb [.pins 1]).nextSlot = .pins 1 := by decide

theorem witness_CommitStoresSnapshot :
    (mid .cm [.pins 1]).fsm = .applying ∧ (mid .cm [.pins 1]).phase = .cm ∧ (mid .cm [.pins 1]).nextSlot = .pins 1 := by decide

theorem witness_ResetTakesTheOperationsPlace :
    (mid .wb [.reset, .reset]).nextSlot = .reset ∧
    ∃ t u, step (mid .wb [.reset, .reset]) = .next t ∧ t.nextSlot = .reset ∧ step t = .next u := ⟨rfl, _, _, rfl, rfl, rfl⟩

theorem witness_ResetDrawsFollowTheCounter :
    (mid .wb [.reset]).nextSlot = .reset ∧ (st 0 0 .idle .wa 1 2 [.reset]).nextSlot = .reset ∧
    (mid .wb [.reset]).draws = (st 0 0 .idle .wa 1 2 [.reset]).draws ∧
    (∃ t, step (mid .wb [.reset]) = .next t) ∧ ∃ u, step (st 0 0 .idle .wa 1 2 [.reset]) = .next u :=
  ⟨rfl, rfl, rfl, ⟨_, rfl⟩, _, rfl⟩

theorem witness_StepRunsTheDecodedInstruction :
    (mid .wa [.pins 0]).fsm = .applying ∧ (mid .wa [.pins 0]).nextSlot = .pins 0 ∧ (mid .wa [.pins 0]).phase = .wa ∧
    snapshot 0xD3 = (mid .wa [.pins 0]).snap ∧ (mid .wb [.pins 0]).phase = .wb := by decide

theorem witness_StoredTableWordRunsNext :
    decodeTableWord 8 0x28 = some .bRate115200 ∧ decodeTableWord 8 0xFF = some .aDef7 ∧
    decodeTableWord 8 0x00 = some .aRate4800 := by decide

theorem witness_TransitionTableIsComplete :
    ∃ t, step (mid .cm [.pins 0]) = .next t ∧ t.prev = 0x13 := ⟨_, rfl, rfl⟩

theorem witness_ExactlyOneOperationEnabled :
    SameRegisters (mid .wa [.pins 1]) (mid .wa [.pins 1]) ∧ ∃ t, step (mid .wa [.pins 1]) = .next t := ⟨⟨rfl, rfl, rfl, rfl, rfl, rfl, rfl⟩, _, rfl⟩

theorem witness_HeldSnapshotIsApplied :
    7 ≤ ([0x29, 0x69, 0xE9, 0x29, 0x29, 0x29, 0x29] : List Byte).length ∧
    (∀ w ∈ ([0x29, 0x69, 0xE9, 0x29, 0x29, 0x29, 0x29] : List Byte), w.extractLsb' 0 6 = (0x29 : Byte).extractLsb' 0 6) ∧
    (mid .cm (([0x29, 0x69, 0xE9, 0x29, 0x29, 0x29, 0x29] : List Byte).map .pins)).env =
      ([0x29, 0x69, 0xE9, 0x29, 0x29, 0x29, 0x29] : List Byte).map .pins ++ [] ∧
    (0x29 : Byte) &&& 0x3F ≠ 0 ∧
    Inv (mid .cm (([0x29, 0x69, 0xE9, 0x29, 0x29, 0x29, 0x29] : List Byte).map .pins)) :=
  ⟨by decide, by decide, rfl, by decide, ⟨by decide, by decide, by decide, by decide, by decide, by decide⟩⟩

theorem witness_SmallStepsComposeToIterations :
    (st 0 0 .idle .wa 3 4 []).fsm = .idle := by decide

theorem witness_WordTakesEffectOnlyIfSnapshotDiffers :
    (st 0x3F 0 .idle .wa 3 4 [.pins 0xFF]).nextSlot = .pins 0xFF ∧ (0xFF : Byte) &&& 0x3F = 0x3F ∧
    (st 0x3F 0 .idle .wa 3 4 [.pins 0x00, .pins 1, .pins 2, .pins 3]).fsm = .idle ∧ (0x00 : Byte) &&& 0x3F ≠ 0x3F := by decide

theorem witness_PinsAreNotReadInsideApplying :
    (mid .wa []).fsm = .applying ∧ (∃ t, step { mid .wa [] with env := [.pins 1] } = .next t) ∧
    (st 0x29 0 .idle .wa 3 4 [.pins 0x13, .pins 1, .pins 2, .pins 3, .pins 0x13]).fsm = .idle ∧ (0x13 : Byte) &&& 0x3F ≠ 0x29 := ⟨rfl, ⟨_, rfl⟩, rfl, by decide⟩

theorem witness_EveryChangeWritesBothRegistersOnce :
    (st 0x29 0 .idle .wa 3 4 [.pins 0x28, .pins 1, .pins 2, .pins 3]).fsm = .idle ∧ (0x28 : Byte) &&& 0x3F ≠ 0x29 := by decide

theorem witness_UnchangingSnapshotIsWrittenOnce :
    (st 0x29 0 .idle .wa 3 4 []).fsm = .idle ∧ (∀ w ∈ ([0x53, 0x13, 0xD3] : List Byte), w.extractLsb' 0 6 = (0x13 : Byte).extractLsb' 0 6) ∧
    (0x13 : Byte) &&& 0x3F ≠ 0x29 ∧ (0x69 : Byte) &&& 0x3F = 0x29 := by decide

theorem witness_CacheHoldsTheAppliedSnapshot :
    (∃ t, step (mid .cm [.pins 0]) = .next t ∧ t.prev ≠ (mid .cm [.pins 0]).prev) ∧
    (mid .cm [.pins 0]).fsm = .applying ∧ (mid .cm [.pins 0]).phase = .cm ∧ (mid .cm [.pins 0]).nextSlot = .pins 0 ∧
    (st 0x29 0 .idle .wa 3 4 [.pins 0x13, .pins 1, .pins 2, .pins 3]).fsm = .idle ∧ (0x13 : Byte) &&& 0x3F ≠ 0x29 := ⟨⟨_, rfl, by decide⟩, rfl, rfl, rfl, rfl, by decide⟩

theorem witness_ChannelsAreIndependent :
    (st 0x1A 0 .idle .cm 5 2 []).fsm = .idle ∧ synchronised (st 0x1A 0 .idle .cm 5 2 []) ∧
    (0x1A : Byte).extractLsb' 6 2 = 0 ∧ (0x1C : Byte).extractLsb' 3 3 = (0x1A : Byte).extractLsb' 3 3 ∧
    (0x1C : Byte).extractLsb' 0 3 ≠ (0x1A : Byte).extractLsb' 0 3 ∧ (0x02 : Byte).extractLsb' 0 3 = (0x1A : Byte).extractLsb' 0 3 ∧
    (0x02 : Byte).extractLsb' 3 3 ≠ (0x1A : Byte).extractLsb' 3 3 := ⟨rfl, ⟨by decide, by decide⟩, by decide⟩

theorem witness_TornWindowBetweenTheWrites :
    (st 0x1A 0 .idle .cm 5 2 [.pins 0x29, .pins 0, .pins 0]).fsm = .idle ∧
    synchronised (st 0x1A 0 .idle .cm 5 2 [.pins 0x29, .pins 0, .pins 0]) ∧ (0x29 : Byte) &&& 0x3F ≠ 0x1A := ⟨rfl, ⟨by decide, by decide⟩, by decide⟩

theorem witness_OperationsMakeExactlyTheirAccess :
    (mid .wa [.pins 1]).nextSlot = .pins 1 ∧ (∃ t, step (mid .wa [.pins 1]) = .next t) ∧ selectedOp (mid .wa []) = .writeA ∧
    selectedOp (mid .wb []) = .writeB ∧ selectedOp (mid .cm []) = .commit ∧ selectedOp (st 0 0 .idle .cm 0 0 []) = .poll := ⟨rfl, ⟨_, rfl⟩, rfl, rfl, rfl, rfl⟩

theorem witness_CompareRegistersChangeOnlyAtTheirWrite :
    (mid .wb [.pins 1]).nextSlot = .pins 1 ∧ (mid .wb [.pins 1]).nextSlot ≠ .reset ∧ ∃ t, step (mid .wb [.pins 1]) = .next t := ⟨rfl, by decide, _, rfl⟩

theorem witness_WrittenWordsAreTableDivisors :
    ∃ t, step (mid .wb [.pins 1]) = .next t ∧ t.events = (mid .wb [.pins 1]).events ++ [.wr .b 5] := ⟨_, rfl, rfl⟩

theorem witness_EveryStepKeepsTheRegistersInStep :
    Inv (mid .cm [.pins 0]) ∧ ∃ t, step (mid .cm [.pins 0]) = .next t := ⟨⟨by decide, by decide, by decide, by decide, by decide, by decide⟩, _, rfl⟩

theorem witness_SynchronisedAfterCommit :
    Inv (mid .cm [.pins 0]) ∧ (mid .cm [.pins 0]).phase = .cm ∧ (∃ t, step (mid .cm [.pins 0]) = .next t) ∧
    synchronised (st 0x1A 0 .idle .cm 5 2 [.pins 0x5A]) ∧ (0x5A : Byte) &&& 0x3F = 0x1A ∧
    ∃ t, step (st 0x1A 0 .idle .cm 5 2 [.pins 0x5A]) = .next t := ⟨⟨by decide, by decide, by decide, by decide, by decide, by decide⟩, rfl, ⟨_, rfl⟩, ⟨by decide, by decide⟩, by decide, _, rfl⟩

theorem witness_WritesAlternateWithoutReset :
    (st 0 0 .idle .wa 3 4 [.pins 1, .pins 1]).fsm = .idle ∧ noResetFor 2 (st 0 0 .idle .wa 3 4 [.pins 1, .pins 1]).env = true := by decide

theorem witness_HighPinBitsHaveNoEffect :
    SameRegisters (st 0 0 .idle .wa 3 4 [.pins 0x01, .reset]) (st 0 0 .idle .wa 3 4 [.pins 0xC1, .reset]) ∧
    List.Forall₂ sameLowBits [.pins 0x01, .reset] [.pins 0xC1, .reset] ∧
    2 ≤ (st 0 0 .idle .wa 3 4 [.pins 0x01, .reset]).env.length ∧
    (st 0 0 .idle .wa 3 4 [.pins 0x01, .reset]).events.map maskEvent =
      (st 0 0 .idle .wa 3 4 [.pins 0xC1, .reset]).events.map maskEvent := ⟨⟨rfl, rfl, rfl, rfl, rfl, rfl, rfl⟩, .cons (by decide : snapshot 0x01 = snapshot 0xC1) (.cons trivial .nil), by decide⟩

theorem witness_ResynchronisesAfterReset :
    (mid .wb [.reset]).nextSlot = .reset ∧ (0x01 : Byte).extractLsb' 0 6 ≠ 0 ∧ (0xC0 : Byte).extractLsb' 0 6 = 0 := by decide

theorem witness_ZeroPinsAfterResetWriteNothing :
    (st 0 0 .idle .wa 3 4 []).fsm = .idle ∧ (st 0 0 .idle .wa 3 4 []).prev = 0 ∧
    ∀ v ∈ ([0x00, 0xC0, 0x40] : List Byte), v.extractLsb' 0 6 = 0 := by decide

theorem witness_ResetInsideApplying :
    (st 0x29 0 .idle .cm 11 15 []).fsm = .idle ∧ (0x13 : Byte) &&& 0x3F ≠ (st 0x29 0 .idle .cm 11 15 []).prev := by decide

theorem witness_AliasedCodesRewriteTheSameValues :
    Channel.a ≠ Channel.b ∧ (st 0x01 0 .idle .cm 11 23 []).fsm = .idle ∧ synchronised (st 0x01 0 .idle .cm 11 23 []) ∧
    (0x01 : Byte).extractLsb' 6 2 = 0 ∧ codeOf .a (snapshot 0x01) ∈ ([1, 6, 7] : List Code) ∧
    codeOf .a (snapshot 0x06) ∈ ([1, 6, 7] : List Code) ∧ codeOf .a (snapshot 0x06) ≠ codeOf .a (snapshot 0x01) ∧
    codeOf .b (snapshot 0x06) = codeOf .b (snapshot 0x01) := ⟨by decide, rfl, ⟨by decide, by decide⟩, by decide⟩

theorem witness_BouncingPinsSettle :
    (st 0x03 0 .idle .cm 2 23 []).fsm = .idle ∧ synchronised (st 0x03 0 .idle .cm 2 23 []) ∧ (0x03 : Byte).extractLsb' 6 2 = 0 := ⟨rfl, ⟨by decide, by decide⟩, by decide⟩

theorem witness_TraceDrivesOneIterationPerPin :
    (st 0x29 0 .idle .cm 11 15 []).fsm = .idle ∧ ∃ t, runTrace [.pin 0x29, .reset] (st 0x29 0 .idle .cm 11 15 []) = some t := ⟨rfl, _, rfl⟩

theorem witness_EveryOperationTakesACycle :
    noResetFor 2 (mid .wb [.pins 0, .pins 0]).env = true ∧
    (st 0x29 0 .idle .wa 3 4 [.pins 0x28, .pins 1, .pins 2]).fsm = .idle ∧
    noResetFor 3 (st 0x29 0 .idle .wa 3 4 [.pins 0x28, .pins 1, .pins 2]).env = true ∧
    selectedOp (stepMany 3 (st 0x29 0 .idle .wa 3 4 [.pins 0x28, .pins 1, .pins 2])) = .commit ∧
    (0xE9 : Byte) &&& 0x3F = 0x29 ∧ (0x28 : Byte) &&& 0x3F ≠ 0x29 := by decide

end Sys2Proof.Tests
end

/-! SUPPORT and PROOFS for the statements about encodings (30_encoding.md): the fields of a byte, the steps of a run, the
relation that bits 7:6 of the pins keep, and then the proofs that settle the statements. -/

namespace Sys2Proof

/-! ### The two fields of a snapshot and of a byte -/

/-- A snapshot is its two codes side by side (30_encoding.md R52). -/
theorem codeOf_b_append_codeOf_a (s : Snap) : codeOf .b s ++ codeOf .a s = s := by
  revert s; decide

/-- Channel A's code is the snapshot under the field's mask (30_encoding.md R52). -/
theorem codeOf_a_setWidth (s : Snap) : (codeOf .a s).setWidth 6 = s &&& 0b000111 := by
  revert s; decide

/-- Channel B's code is the snapshot shifted down to bit 0 and masked (30_encoding.md R52). -/
theorem codeOf_b_setWidth (s : Snap) : (codeOf .b s).setWidth 6 = (s >>> 3) &&& 0b000111 := by
  revert s; decide

/-- A snapshot as a number has channel B's code as its high octal digit and channel A's as its low one
(30_encoding.md R52). -/
theorem snap_toNat (s : Snap) : s.toNat = 8 * (codeOf .b s).toNat + (codeOf .a s).toNat := by
  have happend : s.toNat = (codeOf .b s).toNat <<< 3 ||| (codeOf .a s).toNat := by
    rw [← BitVec.toNat_append, codeOf_b_append_codeOf_a]
  rw [happend, ← Nat.shiftLeft_add_eq_or_of_lt (codeOf .a s).isLt, Nat.shiftLeft_eq]
  omega

/-- Bytes with one snapshot are one byte under the mask (30_encoding.md R51). -/
theorem and_selMask_congr {v w : Byte} (h : snapshot v = snapshot w) :
    v &&& Config.selMask = w &&& Config.selMask := by
  rw [← zext8_snapshot, ← zext8_snapshot, h]

/-- A selector code standing in its channel's field of a byte, every other bit 0 (30_encoding.md R50). -/
def placeCode (x : Channel) (c : Code) : Byte :=
  match x with
  | .a => c.setWidth 8
  | .b => c.setWidth 8 <<< 3

@[simp] theorem codeOf_snapshot_placeCode (x : Channel) (c : Code) : codeOf x (snapshot (placeCode x c)) = c := by
  cases x <;> revert c <;> decide

theorem placeCode_inj {x : Channel} {c e : Code} : placeCode x c = placeCode x e ↔ c = e := by
  refine ⟨fun h => ?_, fun h => h ▸ rfl⟩
  rw [← codeOf_snapshot_placeCode x c, h, codeOf_snapshot_placeCode]

/-- Channel A's mask leaves the byte's channel A code (30_encoding.md R55). -/
theorem and_maskA (v : Byte) : v &&& 0x07 = placeCode .a (codeOf .a (snapshot v)) := by
  revert v; decide

/-- Channel B's mask leaves the byte's channel B code (30_encoding.md R55). -/
theorem and_maskB (v : Byte) : v &&& 0x38 = placeCode .b (codeOf .b (snapshot v)) := by
  revert v; decide

/-- A row's match is its code in its channel's field (30_encoding.md R55). -/
theorem matchBits_eq_placeCode (i : Instr) : i.matchBits = placeCode i.channel i.code := by
  cases i <;> rfl

/-- The rows of channel A are told apart by their codes (30_encoding.md R55). -/
theorem eq_rowA_iff {i : Instr} (h : i.channel = .a) (c : Code) : i = rowA c ↔ c = i.code := by
  refine ⟨fun hi => by rw [hi, rowA_code], fun hc => by rw [hc, rowA_of_channel h]⟩

/-- The rows of channel B are told apart by their codes (30_encoding.md R55). -/
theorem eq_rowB_iff {i : Instr} (h : i.channel = .b) (c : Code) : i = rowB c ↔ c = i.code := by
  refine ⟨fun hi => by rw [hi, rowB_code], fun hc => by rw [hc, rowB_of_channel h]⟩

end Sys2Proof

namespace Sys2Proof.Machine

/-! ### One step of a run -/

@[simp] theorem poll_env (s : State) : (poll s).env = s.env := by
  unfold poll; split <;> rfl

/-- A step answers one state. -/
theorem step_unique {s t u : State} (ht : step s = .next t) (hu : step s = .next u) : t = u :=
  Host.Outcome.next.inj (ht.symm.trans hu)

/-- A step uses up one slot of the schedule and no more (30_encoding.md R62). -/
theorem step_env {s t : State} (h : step s = .next t) : t.env = s.env.tail := by
  rcases step_shape s with ⟨-, hs⟩ | ⟨v, -, ⟨-, hs⟩ | ⟨-, -, hs⟩ | ⟨-, -, hs⟩ | ⟨-, -, hs⟩⟩ <;>
    obtain rfl := step_unique hs h <;> simp

/-- Each state of a run is what the step answers from the one before it. -/
theorem step_stepMany (n : Nat) (s : State) : step (stepMany n s) = .next (stepMany (n + 1) s) := by
  obtain ⟨t, ht⟩ := step_next (stepMany n s)
  rw [stepMany_add n 1, stepMany_succ 0 ht, stepMany_zero, ht]

/-- The next state of a run, once it is known what the step answers. -/
theorem stepMany_succ_eq {n : Nat} {s t : State} (h : step (stepMany n s) = .next t) : stepMany (n + 1) s = t :=
  step_unique (step_stepMany n s) h

/-- At WA a step runs the latched snapshot's channel A instruction (41_poll_apply.md R81). -/
theorem step_writeA_exec {s : State} {v : Byte} (h : s.nextSlot = .pins v) (hf : s.fsm = .applying)
    (hp : s.phase = .wa) : step s = exec (decodeOn .a s.snap) s.tick := by
  simp only [step, h, selectedOp, hf, hp]

/-- At WB a step runs the latched snapshot's channel B instruction (41_poll_apply.md R82). -/
theorem step_writeB_exec {s : State} {v : Byte} (h : s.nextSlot = .pins v) (hf : s.fsm = .applying)
    (hp : s.phase = .wb) : step s = exec (decodeOn .b s.snap) s.tick := by
  simp only [step, h, selectedOp, hf, hp]

/-- A POLL of the snapshot that PREV holds changes no register and leaves its read (41_poll_apply.md R80). -/
theorem step_poll_same {s : State} {v : Byte} (h : s.nextSlot = .pins v) (hf : s.fsm = .idle)
    (hv : v &&& Config.selMask = s.prev) : step s = .next (s.tick.emit (.rd v)) := by
  have hpin : s.tick.pin = v := by simp [h]
  rw [step_poll h hf, poll_same (by rwa [hpin, zext8_snapshot]), hpin]

/-- A POLL of a new snapshot latches it and enters APPLYING at WA (41_poll_apply.md R80). -/
theorem step_poll_diff {s : State} {v : Byte} (h : s.nextSlot = .pins v) (hf : s.fsm = .idle)
    (hv : v &&& Config.selMask ≠ s.prev) :
    step s = .next { s.tick.emit (.rd v) with snap := snapshot v, fsm := .applying, phase := .wa } := by
  have hpin : s.tick.pin = v := by simp [h]
  rw [step_poll h hf, poll_diff (by rwa [hpin, zext8_snapshot]), hpin]

@[simp] theorem writeCount_append (c : Channel) (es fs : List Event) :
    writeCount c (es ++ fs) = writeCount c es + writeCount c fs :=
  List.countP_append

/-! ### An applied change, operation by operation -/

section Iteration

variable {s : State} {v w x y : Byte} {rest : List EnvSlot}

/-- The first operation of an applied change is its POLL (41_poll_apply.md R80). -/
theorem stepMany_one_of_change (hf : s.fsm = .idle) (hv : v &&& Config.selMask ≠ s.prev)
    (henv : s.env = .pins v :: rest) :
    stepMany 1 s = { s.tick.emit (.rd v) with snap := snapshot v, fsm := .applying, phase := .wa } :=
  stepMany_succ 0 (step_poll_diff (nextSlot_of_env henv) hf hv)

/-- The second is WRITE_A of the latched snapshot (41_poll_apply.md R81). -/
theorem stepMany_two_of_change (hf : s.fsm = .idle) (hv : v &&& Config.selMask ≠ s.prev)
    (henv : s.env = .pins v :: .pins w :: rest) :
    stepMany 2 s = writeChannel .a (divCode (codeOf .a (snapshot v))) (stepMany 1 s).tick := by
  have h1 := stepMany_one_of_change hf hv henv
  have hslot : (stepMany 1 s).nextSlot = .pins w := nextSlot_of_env (rest := rest) (by simp [h1, henv])
  rw [stepMany_succ_eq (step_writeA hslot (by simp [h1]) (by simp [h1])), h1]
  rfl

/-- The third is WRITE_B of the latched snapshot (41_poll_apply.md R82). -/
theorem stepMany_three_of_change (hf : s.fsm = .idle) (hv : v &&& Config.selMask ≠ s.prev)
    (henv : s.env = .pins v :: .pins w :: .pins x :: rest) :
    stepMany 3 s = writeChannel .b (divCode (codeOf .b (snapshot v))) (stepMany 2 s).tick := by
  have h1 := stepMany_one_of_change hf hv henv
  have h2 := stepMany_two_of_change hf hv henv
  have hslot : (stepMany 2 s).nextSlot = .pins x := nextSlot_of_env (rest := rest) (by simp [h2, h1, henv])
  rw [stepMany_succ_eq (step_writeB hslot (by simp [h2, h1]) (by simp [h2])), h2, h1]
  rfl

/-- The fourth is COMMIT, back to IDLE (41_poll_apply.md R83). -/
theorem stepMany_four_of_change (hf : s.fsm = .idle) (hv : v &&& Config.selMask ≠ s.prev)
    (henv : s.env = .pins v :: .pins w :: .pins x :: .pins y :: rest) :
    stepMany 4 s = commit (stepMany 3 s).tick := by
  have h1 := stepMany_one_of_change hf hv henv
  have h2 := stepMany_two_of_change hf hv henv
  have h3 := stepMany_three_of_change hf hv henv
  have hslot : (stepMany 3 s).nextSlot = .pins y := nextSlot_of_env (rest := rest) (by simp [h3, h2, h1, henv])
  exact stepMany_succ_eq (step_commit hslot (by simp [h3, h2, h1]) (by simp [h3]))

end Iteration

/-! ### Bits 7:6 of the pins -/

/-- Two states that a run cannot tell apart but by bits 7:6 of what the pins present: the registers agree, and both what
is scheduled and what has happened differ in those bits at most (30_encoding.md R51). PIN is left out: every operation
that reads it reads what its own slot presents. -/
structure AgreeUpToHighBits (s t : State) : Prop where
  registers : SameRegisters s t
  schedule : List.Forall₂ sameLowBits s.env t.env
  log : s.events.map maskEvent = t.events.map maskEvent

namespace AgreeUpToHighBits

variable {s t : State}

theorem after_tick (h : AgreeUpToHighBits s t) : AgreeUpToHighBits s.tick t.tick where
  registers := { h.registers with draws := congrArg (· + 1) h.registers.draws }
  schedule := by
    simpa using List.forall₂_drop 1 h.schedule
  log := h.log

theorem after_takeReset (h : AgreeUpToHighBits s t) : AgreeUpToHighBits (takeReset s) (takeReset t) where
  registers := by
    constructor <;> simp [h.registers.draws]
  schedule := h.schedule
  log := h.log

/-- An event that is the same under the mask keeps the agreement. -/
theorem after_emit (h : AgreeUpToHighBits s t) {e f : Event} (he : maskEvent e = maskEvent f) :
    AgreeUpToHighBits (s.emit e) (t.emit f) where
  registers := { h.registers with }
  schedule := h.schedule
  log := by simp [h.log, he]

/-- POLL sees of PIN the snapshot alone, but for its event (30_encoding.md R51). -/
theorem after_poll (h : AgreeUpToHighBits s t) (hpin : snapshot s.pin = snapshot t.pin) :
    AgreeUpToHighBits (poll s) (poll t) := by
  have hread : AgreeUpToHighBits (s.emit (.rd s.pin)) (t.emit (.rd t.pin)) :=
    h.after_emit (congrArg Event.rd (and_selMask_congr hpin))
  by_cases hs : zext8 (snapshot s.pin) = s.prev
  · have ht : zext8 (snapshot t.pin) = t.prev := by rw [← hpin, hs, h.registers.prev]
    rwa [poll_same hs, poll_same ht]
  · have ht : zext8 (snapshot t.pin) ≠ t.prev := by rwa [← hpin, ← h.registers.prev]
    rw [poll_diff hs, poll_diff ht]
    exact ⟨{ hread.registers with snap := hpin, fsm := rfl, phase := rfl }, hread.schedule, hread.log⟩

theorem after_writeChannel (h : AgreeUpToHighBits s t) (x : Channel) (d : Byte) :
    AgreeUpToHighBits (writeChannel x d s) (writeChannel x d t) := by
  cases x with
  | a => exact ⟨{ h.registers with phase := rfl, ocra := rfl }, h.schedule, by simp [h.log]⟩
  | b => exact ⟨{ h.registers with phase := rfl, ocrb := rfl }, h.schedule, by simp [h.log]⟩

theorem after_commit (h : AgreeUpToHighBits s t) : AgreeUpToHighBits (commit s) (commit t) where
  registers := { h.registers with prev := congrArg zext8 h.registers.snap, fsm := rfl }
  schedule := h.schedule
  log := h.log

theorem divisor_eq (h : AgreeUpToHighBits s t) (x : Channel) : s.divisor x = t.divisor x :=
  congrArg (fun u => divCode (codeOf x u)) h.registers.snap

/-- A step in which the pins present two bytes with one snapshot keeps the agreement: only POLL looks at them. -/
theorem after_step_pins (h : AgreeUpToHighBits s t) {v w : Byte} (hs : s.nextSlot = .pins v) (ht : t.nextSlot = .pins w)
    (hvw : snapshot v = snapshot w) {s' t' : State} (hs' : step s = .next s') (ht' : step t = .next t') :
    AgreeUpToHighBits s' t' := by
  obtain ⟨-, -, hfsm, hphase, -, -, -⟩ := h.registers
  rcases step_shape s with ⟨hr, -⟩ | ⟨-, -, ⟨hf, h₁⟩ | ⟨hf, hp, h₁⟩ | ⟨hf, hp, h₁⟩ | ⟨hf, hp, h₁⟩⟩
  · rw [hs] at hr; cases hr
  all_goals obtain rfl := step_unique h₁ hs'
  · obtain rfl := step_unique (step_poll ht (hfsm ▸ hf)) ht'
    exact h.after_tick.after_poll (by simp [hs, ht, hvw])
  · obtain rfl := step_unique (step_writeA ht (hfsm ▸ hf) (hphase ▸ hp)) ht'
    rw [h.divisor_eq]
    exact h.after_tick.after_writeChannel .a _
  · obtain rfl := step_unique (step_writeB ht (hfsm ▸ hf) (hphase ▸ hp)) ht'
    rw [h.divisor_eq]
    exact h.after_tick.after_writeChannel .b _
  · obtain rfl := step_unique (step_commit ht (hfsm ▸ hf) (hphase ▸ hp)) ht'
    exact h.after_tick.after_commit

/-- One scheduled operation, RESET among them, keeps the agreement (30_encoding.md R51). -/
theorem after_step (h : AgreeUpToHighBits s t) (hne : s.env ≠ []) {s' t' : State} (hs' : step s = .next s')
    (ht' : step t = .next t') : AgreeUpToHighBits s' t' := by
  obtain ⟨e, rest, hse⟩ := List.exists_cons_of_ne_nil hne
  obtain ⟨f, rest', hslots, -, hte⟩ := List.forall₂_cons_left_iff.1 (hse ▸ h.schedule)
  have hs := nextSlot_of_env hse
  have ht := nextSlot_of_env hte
  cases e with
  | reset =>
    cases f with
    | reset =>
      obtain rfl := step_unique (step_reset hs) hs'
      obtain rfl := step_unique (step_reset ht) ht'
      exact h.after_tick.after_takeReset
    | pins w => exact hslots.elim
  | pins v =>
    cases f with
    | reset => exact hslots.elim
    | pins w => exact h.after_step_pins hs ht hslots hs' ht'

/-- Any number of scheduled operations keeps the agreement (30_encoding.md R51). -/
theorem after_stepMany (n : Nat) (h : AgreeUpToHighBits s t) (hn : n ≤ s.env.length) :
    AgreeUpToHighBits (stepMany n s) (stepMany n t) := by
  induction n generalizing s t with
  | zero => exact h
  | succ n ih =>
    obtain ⟨s', hs'⟩ := step_next s
    obtain ⟨t', ht'⟩ := step_next t
    rw [stepMany_succ n hs', stepMany_succ n ht']
    refine ih (h.after_step (List.ne_nil_of_length_pos (by omega)) hs' ht') ?_
    rw [step_env hs', List.length_tail]
    omega

end AgreeUpToHighBits

/-! ### The statements -/

/-- Settles O47: agreement up to bits 7:6 holds at the start and every scheduled operation keeps it. -/
theorem highPinBitsHaveNoEffect : Obligations.HighPinBitsHaveNoEffect := by
  refine ⟨fun v => ⟨zext8_snapshot v, rfl⟩, fun n s t hregs hsched hn hlog => ?_⟩
  have hrun : AgreeUpToHighBits (stepMany n s) (stepMany n t) :=
    AgreeUpToHighBits.after_stepMany n ⟨hregs, hsched, hlog⟩ hn
  exact ⟨hrun.registers, hrun.log⟩

/-- Settles O32: a POLL that finds no change is its read and nothing else, and after one that finds a change the next two
steps are the latched word's instructions. -/
theorem wordTakesEffectOnlyIfSnapshotDiffers : Obligations.WordTakesEffectOnlyIfSnapshotDiffers := by
  refine ⟨fun s v hf hslot hv => ⟨_, step_poll_same hslot hf hv, by constructor <;> rfl, rfl⟩, ?_⟩
  intro s v w x y rest hf hv henv
  have h1 := stepMany_one_of_change hf hv henv
  have h2 := stepMany_two_of_change hf hv henv
  have h3 := stepMany_three_of_change hf hv henv
  have h4 := stepMany_four_of_change hf hv henv
  have hsnap1 : (stepMany 1 s).snap = snapshot v := by rw [h1]
  have hsnap2 : (stepMany 2 s).snap = snapshot v := by rw [h2, writeChannelA_snap, tick_snap, hsnap1]
  have hslot1 : (stepMany 1 s).nextSlot = .pins w :=
    nextSlot_of_env (rest := .pins x :: .pins y :: rest) (by simp [h1, henv])
  have hslot2 : (stepMany 2 s).nextSlot = .pins x :=
    nextSlot_of_env (rest := .pins y :: rest) (by simp [h2, h1, henv])
  refine ⟨?_, ?_, fun c => ?_, by rw [h4, commit_fsm]⟩
  · rw [← step_stepMany 1, step_writeA_exec hslot1 (by simp [h1]) (by simp [h1]), hsnap1]
    rfl
  · rw [← step_stepMany 2, step_writeB_exec hslot2 (by simp [h2, h1]) (by simp [h2]), hsnap2]
    rfl
  · have hevents : (stepMany 3 s).events = s.events ++ [.rd v, .wr .a (divCode (codeOf .a (snapshot v))),
        .wr .b (divCode (codeOf .b (snapshot v)))] := by
      simp [h3, h2, h1]
    rw [hevents, writeCount_append]
    cases c <;> rfl

/-- Settles O14: from the equations of the two fields. -/
theorem snapshotFields : Obligations.SnapshotFields := fun s =>
  ⟨codeOf_a s, codeOf_b s, codeOf_a_setWidth s, codeOf_b_setWidth s, (codeOf_b_append_codeOf_a s).symm, snap_toNat s⟩

/-- Settles O15: both the byte under the channel's mask and the row's match are a code in the channel's field, and the
row of a code is the decoder's. -/
theorem decodingIsTotalAndUnambiguous : Obligations.DecodingIsTotalAndUnambiguous := by
  intro v i
  refine ⟨fun ha => ?_, fun hb => ?_, rowA_channel _, rowB_channel _⟩
  · rw [and_maskA, matchBits_eq_placeCode, ha, placeCode_inj]
    exact (eq_rowA_iff ha _).symm
  · rw [and_maskB, matchBits_eq_placeCode, hb, placeCode_inj]
    exact (eq_rowB_iff hb _).symm

end Sys2Proof.Machine

/-! SUPPORT and PROOFS for the statements about the Divisor Table (40_divisor_table.md): the table as a list, one lemma
that says every row for every code, the trace of one `PIN` item, and then the proofs that settle the statements. -/

namespace Sys2Proof.Machine

/-! ### The Divisor Table as a list -/

/-- The six rows of the table that have a rate name, in code order (40_divisor_table.md R65); `div_natCast` ties the list
to DIV. -/
def namedDivisors : List Byte := [23, 11, 5, 2, 1, 15]

/-- No two named rows share a divisor (40_divisor_table.md R74). -/
theorem namedDivisors_nodup : namedDivisors.Nodup := by decide

/-- On 0 to 5 DIV looks its argument up in the list (40_divisor_table.md R65). -/
theorem div_natCast (n : Nat) (h : n < namedDivisors.length) : div n = namedDivisors[n] := by
  have hn : n < 6 := h
  interval_cases n <;> rfl

/-- Outside 0 to 5 DIV is the default divisor (40_divisor_table.md R65). -/
theorem div_of_outside {c : Int} (h : c < 0 ∨ 5 < c) : div c = 11 := by
  unfold div
  repeat rw [if_neg (by omega)]
  rfl

/-- An integer is a row number of the list, or DIV gives it the default divisor (40_divisor_table.md R65). -/
theorem named_or_outside (c : Int) : (∃ n : Nat, n < namedDivisors.length ∧ c = n) ∨ c < 0 ∨ 5 < c := by
  by_cases h : c < 0 ∨ 5 < c
  · exact .inr h
  · refine .inl ⟨c.toNat, ?_, by omega⟩
    have hlength : namedDivisors.length = 6 := rfl
    omega

/-- DIV has no value beyond the list: the default divisor is the second row's (40_divisor_table.md R74). -/
theorem div_mem_namedDivisors (c : Int) : div c ∈ namedDivisors := by
  rcases named_or_outside c with ⟨n, hn, rfl⟩ | hout
  · rw [div_natCast n hn]
    exact List.getElem_mem hn
  · rw [div_of_outside hout]
    decide

/-- The image of DIV is the list (40_divisor_table.md R74). -/
theorem exists_div_eq_iff (d : Byte) : (∃ c : Int, div c = d) ↔ d ∈ namedDivisors := by
  refine ⟨fun ⟨c, hc⟩ => hc ▸ div_mem_namedDivisors c, fun hd => ?_⟩
  obtain ⟨n, hn, hget⟩ := List.getElem_of_mem hd
  exact ⟨n, (div_natCast n hn).trans hget⟩

/-- DIV is injective on 0 to 5 (40_divisor_table.md R74). -/
theorem div_injective_on_named {c e : Int} (hc : 0 ≤ c ∧ c ≤ 5) (he : 0 ≤ e ∧ e ≤ 5) (h : div c = div e) : c = e := by
  obtain ⟨m, hm, rfl⟩ := (named_or_outside c).resolve_right (by omega)
  obtain ⟨n, hn, rfl⟩ := (named_or_outside e).resolve_right (by omega)
  rw [div_natCast m hm, div_natCast n hn] at h
  rw [namedDivisors_nodup.getElem_inj_iff.1 h]

/-- Every divisor fits in the low five bits, is at most 23 and is not 0 (40_divisor_table.md R70, R74). -/
theorem namedDivisors_bounds :
    ∀ d ∈ namedDivisors, 1 ≤ d.toNat ∧ d.toNat ≤ 23 ∧ d.extractLsb' 5 3 = 0 ∧ d ≠ 0 := by
  decide

/-- The codes 1, 6 and 7 share the default divisor (40_divisor_table.md R72, R73). -/
theorem divCode_of_default_code {c : Code} (h : c ∈ ([1, 6, 7] : List Code)) : divCode c = 11 := by
  revert c; decide

/-! ### One row, whatever its code -/

/-- The state after the environment has moved, where the pins present `v`. -/
theorem tick_of_pins {s : State} {v : Byte} (h : s.nextSlot = .pins v) :
    s.tick = { s with pin := v, env := s.env.tail, draws := s.draws + 1 } := by
  simp [State.tick, h]

/-- The instruction of an applied code is its channel's WRITE with the table's divisor (40_divisor_table.md R66 to
R73). -/
theorem exec_of_applied {i : Instr} {s : State} (h : applied i.channel i.code s = true) :
    exec i s = .next (writeChannel i.channel (divCode i.code) s) := by
  rw [exec_eq, applyCode_applied h]

/-- Every code's row (40_divisor_table.md R66 to R73): its words are those with the code in the channel's field, and
where it is applied it makes its channel's one write, of the table's divisor. -/
theorem rowHolds_of_code (c : Code) :
    RowHolds (rowA c) (rowB c) c (placeCode .a c) (placeCode .b c) (div c.toNat) (rateName c) (rateMode c) where
  wordsA v := by
    rw [and_maskA, placeCode_inj, eq_comm]
    exact (eq_rowA_iff (rowA_channel c) (codeOf .a (snapshot v))).trans (by rw [rowA_code])
  wordsB v := by
    rw [and_maskB, placeCode_inj, eq_comm]
    exact (eq_rowB_iff (rowB_channel c) (codeOf .b (snapshot v))).trans (by rw [rowB_code])
  divisor := rfl
  name := rfl
  mode := rfl
  applyA s hfsm hphase hcode := by
    have happlied : applied .a c s = true := (applied_iff .a c s).2 ⟨hfsm, hphase, hcode⟩
    rw [exec_of_applied (by simpa using happlied), rowA_channel, rowA_code]
    rfl
  applyB s hfsm hphase hcode := by
    have happlied : applied .b c s = true := (applied_iff .b c s).2 ⟨hfsm, hphase, hcode⟩
    rw [exec_of_applied (by simpa using happlied), rowB_channel, rowB_code]
    rfl

/-! ### The trace of one `PIN` item -/

/-- What the four operations of an applied change leave: IDLE, each register with its field's divisor, and their three
events (41_poll_apply.md R84). -/
theorem stepMany_four_effect {s : State} {v w x y : Byte} {rest : List EnvSlot} (hf : s.fsm = .idle)
    (hv : v &&& Config.selMask ≠ s.prev) (henv : s.env = .pins v :: .pins w :: .pins x :: .pins y :: rest) :
    (stepMany 4 s).fsm = .idle ∧ (∀ c : Channel, (stepMany 4 s).ocr c = divCode (codeOf c (snapshot v))) ∧
      (stepMany 4 s).events = s.events ++
        [.rd v, .wr .a (divCode (codeOf .a (snapshot v))), .wr .b (divCode (codeOf .b (snapshot v)))] := by
  have h1 := stepMany_one_of_change hf hv henv
  have h2 := stepMany_two_of_change hf hv henv
  have h3 := stepMany_three_of_change hf hv henv
  have h4 := stepMany_four_of_change hf hv henv
  refine ⟨by rw [h4, commit_fsm], fun c => ?_, by simp [h4, h3, h2, h1]⟩
  cases c <;> simp [State.ocr, h4, h3, h2]

/-- A `PIN` item with a new snapshot, from IDLE, runs one applied change (30_encoding.md R60). -/
theorem runTrace_pin_of_change {s : State} {v : Byte} (hf : s.fsm = .idle) (hv : v &&& Config.selMask ≠ s.prev) :
    ∃ t, runTrace [.pin v] s = some t ∧ t.fsm = .idle ∧
      (∀ c : Channel, t.ocr c = divCode (codeOf c (snapshot v))) ∧
      t.events = s.events ++
        [.rd v, .wr .a (divCode (codeOf .a (snapshot v))), .wr .b (divCode (codeOf .b (snapshot v)))] := by
  have hslots : traceSlots s.prev [.pin v] = some (List.replicate 4 (.pins v)) := by
    simpa [traceSlots] using traceSlots_pin_diff (zext8_snapshot v ▸ hv) []
  exact ⟨_, runTrace_of_slots hslots,
    stepMany_four_effect (s := { s with env := List.replicate 4 (.pins v) ++ s.env }) hf hv rfl⟩

/-- Right after a reset, a byte whose snapshot is not zero gives the writes of its two codes (the examples of
40_divisor_table.md R66 to R73). -/
theorem afterResetGives_of_nonzero {v : Byte} (hv : v &&& Config.selMask ≠ 0) :
    afterResetGives v [.wr .a (divCode (codeOf .a (snapshot v))), .wr .b (divCode (codeOf .b (snapshot v)))] := by
  intro s hf hprev
  obtain ⟨t, hrun, hidle, -, hevents⟩ := runTrace_pin_of_change (v := v) hf (hprev ▸ hv)
  exact ⟨t, hrun, hidle, hevents⟩

/-- A move to code 1, 6 or 7 is a change like any other, and the divisor it loads is 11 (40_divisor_table.md R72,
R73). -/
theorem aliasedMoveRewrites_holds : aliasedMoveRewrites := by
  intro s v x hf _ hv hcode
  obtain ⟨t, hrun, -, hocr, hevents⟩ := runTrace_pin_of_change hf hv
  refine ⟨t, hrun, (hocr x).trans (divCode_of_default_code hcode), ?_⟩
  rw [hevents, codeOf_a_snapshot, codeOf_b_snapshot]
  rfl

/-! ### The statements -/

/-- Settles O11: the named rows by evaluation, the default outside them. -/
theorem divisorTableOnEveryInteger : Obligations.DivisorTableOnEveryInteger :=
  ⟨rfl, rfl, rfl, rfl, rfl, rfl, fun _ => div_of_outside⟩

/-- Settles O12: DIV's image is the list of the named rows, which has no divisor twice. -/
theorem divisorTableImage : Obligations.DivisorTableImage := by
  have hperm : namedDivisors.Perm [1, 2, 5, 11, 15, 23] := by decide
  refine ⟨fun d => (exists_div_eq_iff d).trans hperm.mem_iff, fun c => ?_, ?_, ?_⟩
  · obtain ⟨-, hbounds⟩ := namedDivisors_bounds (div c) (div_mem_namedDivisors c)
    exact hbounds
  · exact ⟨rfl, div_of_outside (by decide), div_of_outside (by decide)⟩
  · intro c e hc hc5 he he5
    exact div_injective_on_named ⟨hc, hc5⟩ ⟨he, he5⟩

/-- Settles O1: the row of code 0; right after a reset a zero snapshot is PREV already, so its POLL writes nothing. -/
theorem rate4800LoadsDivisor23 : Obligations.Rate4800LoadsDivisor23 := by
  refine ⟨rowHolds_of_code 0, fun s v hf hprev hslot hzero => ?_, afterResetGives_of_nonzero (by decide)⟩
  have hsame : v &&& Config.selMask = s.prev := by
    rw [← zext8_snapshot, snapshot, hzero, hprev]
    rfl
  rw [step_poll_same hslot hf hsame, tick_of_pins hslot]
  rfl

/-- Settles O2: the row of code 1, whose divisor is the default of the codes 6 and 7. -/
theorem rate9600LoadsDivisor11 : Obligations.Rate9600LoadsDivisor11 :=
  ⟨rowHolds_of_code 1, div_of_outside (by decide), div_of_outside (by decide), afterResetGives_of_nonzero (by decide)⟩

/-- Settles O3: the row of code 2. -/
theorem rate19200LoadsDivisor5 : Obligations.Rate19200LoadsDivisor5 :=
  ⟨rowHolds_of_code 2, afterResetGives_of_nonzero (by decide)⟩

/-- Settles O4: the row of code 3. -/
theorem rate38400LoadsDivisor2 : Obligations.Rate38400LoadsDivisor2 :=
  ⟨rowHolds_of_code 3, afterResetGives_of_nonzero (by decide)⟩

/-- Settles O5: the row of code 4; no divisor of the list is below 1. -/
theorem rate57600LoadsDivisor1 : Obligations.Rate57600LoadsDivisor1 := by
  refine ⟨rowHolds_of_code 4, fun c => ?_, afterResetGives_of_nonzero (by decide)⟩
  obtain ⟨hpos, -⟩ := namedDivisors_bounds (div c.toNat) (div_mem_namedDivisors c.toNat)
  exact hpos

/-- Settles O6: the row of code 5. -/
theorem rate115200LoadsDivisor15 : Obligations.Rate115200LoadsDivisor15 :=
  ⟨rowHolds_of_code 5, by decide, afterResetGives_of_nonzero (by decide)⟩

/-- Settles O7: the row of code 6 and the move among the aliased codes. -/
theorem code6LoadsDefaultDivisor11 : Obligations.Code6LoadsDefaultDivisor11 :=
  ⟨rowHolds_of_code 6, aliasedMoveRewrites_holds, afterResetGives_of_nonzero (by decide)⟩

/-- Settles O8: the row of code 7 and the move among the aliased codes. -/
theorem code7LoadsDefaultDivisor11 : Obligations.Code7LoadsDefaultDivisor11 :=
  ⟨rowHolds_of_code 7, aliasedMoveRewrites_holds, afterResetGives_of_nonzero (by decide)⟩

end Sys2Proof.Machine

/-! SUPPORT and PROOFS for the statements about the operations and the state machine (41_poll_apply.md): the transition
table as a relation, whole iterations as one state update, how far the next POLL is, and then the proofs that settle the
statements. -/

namespace Sys2Proof.Machine

/-! ### The transition table -/

/-- The six rows of the transition table, each with its whole next state (41_poll_apply.md R85);
`step_eq_next_iff` ties the relation to `step`. -/
inductive Transition (s : State) : State → Prop
  | reset : s.nextSlot = .reset → Transition s (takeReset s.tick)
  | pollSame (v : Byte) : s.nextSlot = .pins v → s.fsm = .idle → v &&& Config.selMask = s.prev →
      Transition s (s.tick.emit (.rd v))
  | pollDiff (v : Byte) : s.nextSlot = .pins v → s.fsm = .idle → v &&& Config.selMask ≠ s.prev →
      Transition s { s.tick.emit (.rd v) with snap := snapshot v, fsm := .applying, phase := .wa }
  | writeA (v : Byte) : s.nextSlot = .pins v → s.fsm = .applying → s.phase = .wa →
      Transition s (writeChannel .a (s.divisor .a) s.tick)
  | writeB (v : Byte) : s.nextSlot = .pins v → s.fsm = .applying → s.phase = .wb →
      Transition s (writeChannel .b (s.divisor .b) s.tick)
  | commit (v : Byte) : s.nextSlot = .pins v → s.fsm = .applying → s.phase = .cm →
      Transition s (commit s.tick)

theorem step_of_transition {s t : State} (h : Transition s t) : step s = .next t := by
  cases h with
  | reset hslot => exact step_reset hslot
  | pollSame v hslot hf hv => exact step_poll_same hslot hf hv
  | pollDiff v hslot hf hv => exact step_poll_diff hslot hf hv
  | writeA v hslot hf hp => exact step_writeA hslot hf hp
  | writeB v hslot hf hp => exact step_writeB hslot hf hp
  | commit v hslot hf hp => exact step_commit hslot hf hp

/-- Every state has a row (41_poll_apply.md R85). -/
theorem exists_transition (s : State) : ∃ t, Transition s t := by
  rcases step_shape s with ⟨hr, -⟩ | ⟨v, hslot, ⟨hf, -⟩ | ⟨hf, hp, -⟩ | ⟨hf, hp, -⟩ | ⟨hf, hp, -⟩⟩
  · exact ⟨_, .reset hr⟩
  · by_cases hv : v &&& Config.selMask = s.prev
    · exact ⟨_, .pollSame v hslot hf hv⟩
    · exact ⟨_, .pollDiff v hslot hf hv⟩
  · exact ⟨_, .writeA v hslot hf hp⟩
  · exact ⟨_, .writeB v hslot hf hp⟩
  · exact ⟨_, .commit v hslot hf hp⟩

/-- A step that answers a next state takes one of the six rows, and each row is a step (41_poll_apply.md R85). -/
theorem step_eq_next_iff {s t : State} : step s = .next t ↔ Transition s t := by
  refine ⟨fun h => ?_, step_of_transition⟩
  obtain ⟨u, hu⟩ := exists_transition s
  exact step_unique (step_of_transition hu) h ▸ hu

/-! ### Which operation is selected -/

theorem selectedOp_eq_poll_iff (s : State) : selectedOp s = .poll ↔ s.fsm = .idle := by
  cases hf : s.fsm with
  | idle => simp [selectedOp, hf]
  | applying => cases hp : s.phase <;> simp [selectedOp, hf, hp]

/-- Of the block's four operations the one that FSM and PHASE select is enabled, and no other (41_poll_apply.md R92). -/
theorem enabled_iff_selectedOp (s : State) {o : Op} (ho : o ≠ .reset) : enabled o s = true ↔ o = selectedOp s := by
  cases hf : s.fsm with
  | idle => cases o <;> simp [enabled, selectedOp, hf] at ho ⊢
  | applying => cases hp : s.phase <;> cases o <;> simp [enabled, selectedOp, hf, hp] at ho ⊢

/-! ### Two states with the same registers -/

namespace SameRegisters

variable {s t : State}

theorem after_tick (h : SameRegisters s t) : SameRegisters s.tick t.tick :=
  { h with draws := congrArg (· + 1) h.draws }

theorem divisor_eq (h : SameRegisters s t) (x : Channel) : s.divisor x = t.divisor x :=
  congrArg (fun u => divCode (codeOf x u)) h.snap

/-- The registers, the draw counter and the slot determine the next registers and the new events (41_poll_apply.md
R92). -/
theorem after_step (h : SameRegisters s t) (hslots : s.nextSlot = t.nextSlot) {s' t' : State}
    (hs' : step s = .next s') (ht' : step t = .next t') :
    SameRegisters s' t' ∧ ∃ es, s'.events = s.events ++ es ∧ t'.events = t.events ++ es := by
  have htick := h.after_tick
  cases step_eq_next_iff.1 hs' with
  | reset hslot =>
    obtain rfl := step_unique (step_reset (hslots ▸ hslot)) ht'
    exact ⟨by constructor <;> simp [h.draws], [], by simp, by simp⟩
  | pollSame v hslot hf hv =>
    obtain rfl := step_unique (step_poll_same (hslots ▸ hslot) (h.fsm ▸ hf) (h.prev ▸ hv)) ht'
    exact ⟨{ htick with }, [.rd v], rfl, rfl⟩
  | pollDiff v hslot hf hv =>
    obtain rfl := step_unique (step_poll_diff (hslots ▸ hslot) (h.fsm ▸ hf) (h.prev ▸ hv)) ht'
    exact ⟨{ htick with snap := rfl, fsm := rfl, phase := rfl }, [.rd v], rfl, rfl⟩
  | writeA v hslot hf hp =>
    obtain rfl := step_unique (step_writeA (hslots ▸ hslot) (h.fsm ▸ hf) (h.phase ▸ hp)) ht'
    rw [h.divisor_eq]
    exact ⟨{ htick with phase := rfl, ocra := rfl }, [.wr .a (t.divisor .a)], rfl, rfl⟩
  | writeB v hslot hf hp =>
    obtain rfl := step_unique (step_writeB (hslots ▸ hslot) (h.fsm ▸ hf) (h.phase ▸ hp)) ht'
    rw [h.divisor_eq]
    exact ⟨{ htick with phase := rfl, ocrb := rfl }, [.wr .b (t.divisor .b)], rfl, rfl⟩
  | commit v hslot hf hp =>
    obtain rfl := step_unique (step_commit (hslots ▸ hslot) (h.fsm ▸ hf) (h.phase ▸ hp)) ht'
    exact ⟨{ htick with prev := congrArg zext8 h.snap, fsm := rfl }, [], by simp, by simp⟩

end SameRegisters

/-! ### A whole iteration as one update -/

/-- A POLL of `v` that finds no change, with the schedule untouched: the read alone (41_poll_apply.md R80). -/
def afterNoChange (s : State) (v : Byte) : State :=
  { s with pin := v, events := s.events ++ [.rd v], draws := s.draws + 1 }

/-- The four operations of an applied change to `v`'s snapshot, with the schedule untouched (41_poll_apply.md R80 to
R83). -/
def afterChange (s : State) (v : Byte) : State :=
  { s with
    prev := zext8 (snapshot v), snap := snapshot v, fsm := .idle, phase := .cm, pin := v
    ocra := divCode (codeOf .a (snapshot v)), ocrb := divCode (codeOf .b (snapshot v))
    events := s.events ++
      [.rd v, .wr .a (divCode (codeOf .a (snapshot v))), .wr .b (divCode (codeOf .b (snapshot v)))]
    draws := s.draws + 4 }

/-- The state that ITERATION(`v`) leaves, with the schedule untouched (41_poll_apply.md R84); `runTrace_pins` ties it to
the small steps. -/
def afterIteration (s : State) (v : Byte) : State :=
  if zext8 (snapshot v) = s.prev then afterNoChange s v else afterChange s v

theorem afterIteration_same {s : State} {v : Byte} (hv : zext8 (snapshot v) = s.prev) :
    afterIteration s v = afterNoChange s v :=
  if_pos hv

theorem afterIteration_diff {s : State} {v : Byte} (hv : zext8 (snapshot v) ≠ s.prev) :
    afterIteration s v = afterChange s v :=
  if_neg hv

/-- Whether or not there was a change, PREV is the snapshot afterwards (41_poll_apply.md R84). -/
@[simp] theorem afterIteration_prev (s : State) (v : Byte) : (afterIteration s v).prev = zext8 (snapshot v) := by
  unfold afterIteration
  split
  · next h => exact h.symm
  · rfl

@[simp] theorem afterIteration_env (s : State) (v : Byte) : (afterIteration s v).env = s.env := by
  unfold afterIteration
  split <;> rfl

theorem afterIteration_idle {s : State} (hf : s.fsm = .idle) (v : Byte) : (afterIteration s v).fsm = .idle := by
  unfold afterIteration
  split
  · exact hf
  · rfl

/-- The update does the big step on the registers (41_poll_apply.md R84). -/
theorem iteration_registers (s : State) (v : Byte) :
    iteration v (s.prev, s.ocra, s.ocrb) =
      ((afterIteration s v).prev, (afterIteration s v).ocra, (afterIteration s v).ocrb) := by
  unfold iteration afterIteration
  split <;> rfl

/-- The update appends the big step's events (41_poll_apply.md R84). -/
theorem afterIteration_events (s : State) (v : Byte) :
    (afterIteration s v).events = s.events ++ iterationEvents v s.prev := by
  unfold iterationEvents afterIteration
  split <;> rfl

/-- A POLL that finds no change, as a run (41_poll_apply.md R80). -/
theorem stepMany_one_same {s : State} {v : Byte} {rest : List EnvSlot} (hf : s.fsm = .idle)
    (hv : zext8 (snapshot v) = s.prev) (henv : s.env = .pins v :: rest) :
    stepMany 1 s = { afterNoChange s v with env := rest } := by
  have hslot := nextSlot_of_env henv
  rw [stepMany_succ 0 (step_poll_same hslot hf (zext8_snapshot v ▸ hv)), stepMany_zero, tick_of_pins hslot, henv]
  rfl

/-- The four operations of an applied change, as a run: only PIN sees what the pins present after the POLL
(41_poll_apply.md R84, R91). -/
theorem stepMany_four_diff {s : State} {v w x y : Byte} {rest : List EnvSlot} (hf : s.fsm = .idle)
    (hv : zext8 (snapshot v) ≠ s.prev) (henv : s.env = .pins v :: .pins w :: .pins x :: .pins y :: rest) :
    stepMany 4 s = { afterChange s v with env := rest, pin := y } := by
  have hmask : v &&& Config.selMask ≠ s.prev := zext8_snapshot v ▸ hv
  have happend : ∀ a b c : Event, s.events ++ [a, b, c] = s.events ++ [a] ++ [b] ++ [c] := by simp
  rw [stepMany_four_of_change hf hmask henv, stepMany_three_of_change hf hmask henv,
    stepMany_two_of_change hf hmask henv, stepMany_one_of_change hf hmask henv, afterChange, happend]
  cases s
  cases henv
  rfl

/-- Where the first items of a trace have the schedule `slots`, and running it turns `s` into `u`, the other items drive
the block from `u` (30_encoding.md R60). -/
theorem runTrace_of_first_slots {s u : State} {items rest : List TraceItem} {slots : List EnvSlot}
    (hslots : traceSlots s.prev items = (traceSlots u.prev rest).map (slots ++ ·)) (henv : u.env = s.env)
    (hrun : ∀ env, stepMany slots.length { s with env := slots ++ env } = { u with env := env }) :
    runTrace items s = runTrace rest u := by
  simp only [runTrace, hslots, henv, Option.map_map]
  refine Option.map_congr fun more _ => ?_
  simp only [Function.comp_apply, List.length_append, stepMany_add slots.length, List.append_assoc, hrun]

/-- Driving one `PIN` item first does its iteration's update, and then the other items drive the block
(30_encoding.md R60, 41_poll_apply.md R84). -/
theorem runTrace_pin_cons {s : State} (hf : s.fsm = .idle) (v : Byte) (vs : List Byte) :
    runTrace (.pin v :: vs.map .pin) s = runTrace (vs.map .pin) (afterIteration s v) := by
  by_cases hv : zext8 (snapshot v) = s.prev
  · refine runTrace_of_first_slots (slots := [.pins v]) ?_ (afterIteration_env s v) fun env => ?_
    · rw [afterIteration_prev, hv]
      exact traceSlots_pin_same hv vs
    · rw [afterIteration_same hv]
      exact stepMany_one_same (s := { s with env := .pins v :: env }) hf hv rfl
  · refine runTrace_of_first_slots (slots := List.replicate 4 (.pins v)) ?_ (afterIteration_env s v) fun env => ?_
    · rw [afterIteration_prev]
      exact traceSlots_pin_diff hv vs
    · rw [afterIteration_diff hv]
      exact stepMany_four_diff (s := { s with env := List.replicate 4 (.pins v) ++ env }) hf hv rfl

/-- The simulation: a trace of `PIN` items from IDLE does the update of each item in order (41_poll_apply.md R84). -/
theorem runTrace_pins (vs : List Byte) {s : State} (hf : s.fsm = .idle) :
    runTrace (vs.map .pin) s = some (vs.foldl afterIteration s) := by
  induction vs generalizing s with
  | nil => rfl
  | cons v vs ih => rw [List.map_cons, runTrace_pin_cons hf, ih (afterIteration_idle hf v), List.foldl_cons]

theorem foldl_afterIteration_idle (vs : List Byte) {s : State} (hf : s.fsm = .idle) :
    (vs.foldl afterIteration s).fsm = .idle := by
  induction vs generalizing s with
  | nil => exact hf
  | cons v vs ih => exact ih (afterIteration_idle hf v)

theorem foldl_afterIteration_env (vs : List Byte) (s : State) : (vs.foldl afterIteration s).env = s.env := by
  induction vs generalizing s with
  | nil => rfl
  | cons v vs ih => rw [List.foldl_cons, ih, afterIteration_env]

/-- Bytes whose snapshot PREV holds already leave their reads alone (41_poll_apply.md R87). -/
theorem foldl_afterIteration_events_of_same (vs : List Byte) {s : State}
    (hvs : ∀ w ∈ vs, zext8 (snapshot w) = s.prev) : (vs.foldl afterIteration s).events = s.events ++ vs.map .rd := by
  induction vs generalizing s with
  | nil => simp
  | cons v vs ih =>
    obtain ⟨hv, hrest⟩ := List.forall_mem_cons.1 hvs
    have hstays : ∀ w ∈ vs, zext8 (snapshot w) = (afterIteration s v).prev := by
      simpa [hv] using hrest
    rw [List.foldl_cons, ih hstays, afterIteration_same hv, List.map_cons, List.append_cons]
    rfl

/-! ### How far the next POLL is -/

/-- How many operations of the block stand before its next POLL (41_poll_apply.md R93); `opsToPoll_eq_zero_iff` and
`opsToPoll_step_lt` say what it counts. -/
def opsToPoll (s : State) : Nat :=
  match s.fsm with
  | .idle => 0
  | .applying =>
    match s.phase with
    | .wa => 3
    | .wb => 2
    | .cm => 1

theorem opsToPoll_le (s : State) : opsToPoll s ≤ 3 := by
  unfold opsToPoll
  repeat' split
  all_goals decide

theorem opsToPoll_idle {s : State} (hf : s.fsm = .idle) : opsToPoll s = 0 := by
  simp [opsToPoll, hf]

theorem opsToPoll_eq_zero_iff (s : State) : opsToPoll s = 0 ↔ selectedOp s = .poll := by
  rw [selectedOp_eq_poll_iff]
  cases hf : s.fsm with
  | idle => simp [opsToPoll_idle hf]
  | applying => cases hp : s.phase <;> simp [opsToPoll, hf, hp]

/-- Every step inside APPLYING brings the next POLL nearer, a RESET too (41_poll_apply.md R93). -/
theorem opsToPoll_step_lt {s t : State} (h : step s = .next t) (hs : opsToPoll s ≠ 0) : opsToPoll t < opsToPoll s := by
  cases step_eq_next_iff.1 h with
  | reset _ =>
    rw [opsToPoll_idle (takeReset_fsm _)]
    omega
  | pollSame _ _ hf _ => exact absurd (opsToPoll_idle hf) hs
  | pollDiff _ _ hf _ => exact absurd (opsToPoll_idle hf) hs
  | writeA _ _ hf hp => simp [opsToPoll, hf, hp]
  | writeB _ _ hf hp => simp [opsToPoll, hf, hp]
  | commit _ _ hf hp =>
    rw [opsToPoll_idle (commit_fsm _)]
    omega

/-- A RESET leaves a state whose next operation is a POLL (70_reset_and_hazards.md R120). -/
theorem opsToPoll_step_of_reset {s t : State} (h : step s = .next t) (hslot : s.nextSlot = .reset) :
    opsToPoll t = 0 := by
  obtain rfl := step_unique (step_reset hslot) h
  exact opsToPoll_idle (takeReset_fsm _)

/-- The selected operation becomes POLL within the operations counted (41_poll_apply.md R93). -/
theorem exists_poll_selected (s : State) : ∃ k, k ≤ opsToPoll s ∧ selectedOp (stepMany k s) = .poll := by
  by_cases hs : opsToPoll s = 0
  · exact ⟨0, Nat.zero_le _, (opsToPoll_eq_zero_iff s).1 hs⟩
  · have hlt : opsToPoll (stepMany 1 s) < opsToPoll s := opsToPoll_step_lt (step_stepMany 0 s) hs
    obtain ⟨k, hk, hpoll⟩ := exists_poll_selected (stepMany 1 s)
    exact ⟨1 + k, by omega, by rwa [stepMany_add]⟩
termination_by opsToPoll s

/-! ### Fairness -/

/-- Every step is one draw (log 3). -/
theorem step_draws {s t : State} (h : step s = .next t) : t.draws = s.draws + 1 := by
  cases step_eq_next_iff.1 h <;> rfl

theorem stepMany_draws (n : Nat) (s : State) : (stepMany n s).draws = s.draws + n := by
  induction n with
  | zero => rfl
  | succ n ih => rw [step_draws (step_stepMany n s), ih, Nat.add_assoc]

theorem stepMany_env (n : Nat) (s : State) : (stepMany n s).env = s.env.drop n := by
  induction n with
  | zero => rfl
  | succ n ih => rw [step_env (step_stepMany n s), ih, List.tail_drop]

/-- From every point on some later slot lets the block take its operation: once the schedule has ended the free slots do
(41_poll_apply.md R93). -/
theorem exists_pins_slot (s : State) (n : Nat) : ∃ m v, n ≤ m ∧ (stepMany m s).nextSlot = .pins v := by
  obtain ⟨d, v, hd, hfree⟩ := freeSlot_fair (s.draws + s.env.length + n)
  have hended : (stepMany (d - s.draws) s).env = [] := by
    rw [stepMany_env]
    exact List.drop_eq_nil_of_le (by omega)
  refine ⟨d - s.draws, v, by omega, ?_⟩
  rw [nextSlot_of_nil hended, stepMany_draws, show s.draws + (d - s.draws) = d by omega, hfree]

theorem blockOps_add (m n : Nat) (s : State) : blockOps (m + n) s = blockOps m s + blockOps n (stepMany m s) := by
  induction m generalizing s with
  | zero => simp
  | succ m ih =>
    obtain ⟨t, ht⟩ := step_next s
    rw [show m + 1 + n = (m + n) + 1 by omega, blockOps_succ _ ht, blockOps_succ _ ht, stepMany_succ _ ht, ih,
      Nat.add_assoc]

/-- After finitely many resets, none of which puts the next POLL off, the block takes its operation (41_poll_apply.md
R93). -/
theorem exists_turn_after_resets (s : State) :
    ∃ m v, blockOps m s = 0 ∧ opsToPoll (stepMany m s) ≤ opsToPoll s ∧ (stepMany m s).nextSlot = .pins v := by
  obtain ⟨m, v, -, hm⟩ := exists_pins_slot s 0
  induction m generalizing s with
  | zero => exact ⟨0, v, rfl, le_rfl, hm⟩
  | succ m ih =>
    cases hslot : s.nextSlot with
    | pins w => exact ⟨0, w, rfl, le_rfl, hslot⟩
    | reset =>
      obtain ⟨t, ht⟩ := step_next s
      obtain ⟨k, w, hops, hle, hk⟩ := ih t (stepMany_succ m ht ▸ hm)
      have hzero := opsToPoll_step_of_reset ht hslot
      exact ⟨k + 1, w, by simp [blockOps_succ k ht, hslot, hops], by rw [stepMany_succ k ht]; omega,
        by rwa [stepMany_succ k ht]⟩

/-- A POLL occurs, with no more operations of the block before it than were counted (41_poll_apply.md R93). -/
theorem exists_poll_performed (s : State) :
    ∃ k, performedOp (stepMany k s) = .poll ∧ blockOps k s ≤ opsToPoll s := by
  obtain ⟨m, v, hops, hle, hslot⟩ := exists_turn_after_resets s
  by_cases hzero : opsToPoll (stepMany m s) = 0
  · exact ⟨m, (performedOp_pins hslot).trans ((opsToPoll_eq_zero_iff _).1 hzero), by omega⟩
  · have hlt := opsToPoll_step_lt (step_stepMany m s) hzero
    obtain ⟨k, hpoll, hk⟩ := exists_poll_performed (stepMany (m + 1) s)
    have hone : blockOps 1 (stepMany m s) ≤ 1 := by
      rw [blockOps_succ 0 (step_stepMany m s)]
      split <;> simp
    refine ⟨m + 1 + k, by rwa [stepMany_add], ?_⟩
    rw [blockOps_add, blockOps_add]
    omega
termination_by opsToPoll s

/-! ### Reads and synchronisation -/

@[simp] theorem readCount_append (es fs : List Event) : readCount (es ++ fs) = readCount es + readCount fs :=
  List.countP_append

/-- Inside APPLYING the byte the pins present reaches PIN alone, and nothing is read (41_poll_apply.md R91). -/
theorem step_applying_of_pins {s t u : State} {v w : Byte} {rest : List EnvSlot} (hf : s.fsm = .applying)
    (ht : step { s with env := .pins v :: rest } = .next t) (hu : step { s with env := .pins w :: rest } = .next u) :
    t = { u with pin := v } ∧ readCount t.events = readCount s.events := by
  have hv : State.nextSlot { s with env := .pins v :: rest } = .pins v := rfl
  have hw : State.nextSlot { s with env := .pins w :: rest } = .pins w := rfl
  cases hp : s.phase with
  | wa =>
    obtain rfl := step_unique (step_writeA hv hf hp) ht
    obtain rfl := step_unique (step_writeA hw hf hp) hu
    exact ⟨rfl, by rw [writeChannelA_events, readCount_append]; rfl⟩
  | wb =>
    obtain rfl := step_unique (step_writeB hv hf hp) ht
    obtain rfl := step_unique (step_writeB hw hf hp) hu
    exact ⟨rfl, by rw [writeChannelB_events, readCount_append]; rfl⟩
  | cm =>
    obtain rfl := step_unique (step_commit hv hf hp) ht
    obtain rfl := step_unique (step_commit hw hf hp) hu
    exact ⟨rfl, rfl⟩

/-- A POLL leads into APPLYING exactly if it finds a change (41_poll_apply.md R80). -/
theorem step_poll_applying_iff {s t : State} {v : Byte} (hslot : s.nextSlot = .pins v) (hf : s.fsm = .idle)
    (h : step s = .next t) : t.fsm = .applying ↔ v &&& Config.selMask ≠ s.prev := by
  by_cases hv : v &&& Config.selMask = s.prev
  · obtain rfl := step_unique (step_poll_same hslot hf hv) h
    simp [hf, hv]
  · obtain rfl := step_unique (step_poll_diff hslot hf hv) h
    simp [hv]

/-- Each register holds the divisor of its own field of PREV (41_poll_apply.md R94). -/
theorem synchronised_iff (s : State) :
    synchronised s ↔ ∀ x : Channel, s.ocr x = divCode (codeOf x (snapshot s.prev)) := by
  refine ⟨fun ⟨ha, hb⟩ x => ?_, fun h => ⟨h .a, h .b⟩⟩
  cases x
  · exact ha
  · exact hb

/-- A byte with another code than PREV's on some channel is a change (41_poll_apply.md R80). -/
theorem and_selMask_ne_of_codeOf_ne {v p : Byte} {x : Channel} (h : codeOf x (snapshot v) ≠ codeOf x (snapshot p)) :
    v &&& Config.selMask ≠ p := by
  intro hv
  rw [← hv, ← zext8_snapshot, snapshot_zext8] at h
  exact h rfl

/-- From a synchronised idle state, a byte with another code on channel `x` and the same on `y` loads `x`'s divisor and
leaves the value of `y`'s register (41_poll_apply.md R89). -/
theorem runTrace_pin_of_one_field {s : State} {v : Byte} {x y : Channel} (hf : s.fsm = .idle) (hsync : synchronised s)
    (hx : codeOf x (snapshot v) ≠ codeOf x (snapshot s.prev))
    (hy : codeOf y (snapshot v) = codeOf y (snapshot s.prev)) :
    ∃ t, runTrace [.pin v] s = some t ∧ t.ocr x = divCode (codeOf x (snapshot v)) ∧ t.ocr y = s.ocr y := by
  obtain ⟨t, hrun, -, hocr, -⟩ := runTrace_pin_of_change hf (and_selMask_ne_of_codeOf_ne hx)
  exact ⟨t, hrun, hocr x, by rw [hocr y, hy, (synchronised_iff s).1 hsync y]⟩

/-- Between a reset and the first COMMIT: the registers hold what the reset left in them (41_poll_apply.md R94). -/
def beforeFirstCommit : State where
  prev := 0
  snap := 0
  fsm := .idle
  phase := .wa
  pin := 0
  ocra := 0
  ocrb := 0
  events := []
  env := []
  draws := 0

/-- Between the two writes of a change from codes 1 and 0 to codes 2 and 0 (41_poll_apply.md R90, R94). -/
def betweenTheWrites : State where
  prev := 0x01
  snap := 0b000010
  fsm := .applying
  phase := .wb
  pin := 0x02
  ocra := 5
  ocrb := 23
  events := [.rd 0x02, .wr .a 5]
  env := []
  draws := 2

theorem beforeFirstCommit_inv : Inv beforeFirstCommit := by
  constructor <;> decide

theorem betweenTheWrites_inv : Inv betweenTheWrites := by
  constructor <;> decide

/-! ### The statements -/

/-- Settles O31: the trace is the fold of the iterations' updates, and each update does the big step on the registers
and the events. -/
theorem smallStepsComposeToIterations : Obligations.SmallStepsComposeToIterations := by
  intro vs s hf
  refine ⟨_, runTrace_pins vs hf, foldl_afterIteration_idle vs hf, foldl_afterIteration_env vs s, ?_, ?_⟩
  · exact (List.foldl_hom (fun u : State => (u.prev, u.ocra, u.ocrb)) iteration_registers).symm
  · refine congrArg Prod.fst (List.foldl_hom (fun u : State => (u.events, u.prev, u.ocra, u.ocrb)) fun u v => ?_).symm
    rw [iteration_registers, afterIteration_events]

/-- Settles O35: after the first iteration PREV holds the snapshot, so every other one leaves its read alone. -/
theorem unchangingSnapshotIsWrittenOnce : Obligations.UnchangingSnapshotIsWrittenOnce := by
  intro s v vs hf hvs
  have hstays : ∀ w ∈ vs, zext8 (snapshot w) = (afterIteration s v).prev := fun w hw => by
    rw [afterIteration_prev]
    exact congrArg zext8 (hvs w hw)
  have hrun : (vs.foldl afterIteration (afterIteration s v)).events =
      s.events ++ iterationEvents v s.prev ++ vs.map .rd := by
    rw [foldl_afterIteration_events_of_same vs hstays, afterIteration_events]
  refine ⟨_, runTrace_pins (v :: vs) hf,
    fun hv => ⟨divCode (codeOf .a (snapshot v)), divCode (codeOf .b (snapshot v)), hrun.trans ?_⟩,
    fun hv => hrun.trans ?_⟩
  · rw [iterationEvents, if_neg (zext8_snapshot v ▸ hv)]
    simp
  · rw [iterationEvents, if_pos ((zext8_snapshot v).trans hv)]
    simp

/-- Settles O28: the six rows of `Transition`. -/
theorem transitionTableIsComplete : Obligations.TransitionTableIsComplete := by
  intro s t h
  cases step_eq_next_iff.1 h with
  | reset hslot => exact .inl ⟨hslot, rfl, rfl⟩
  | pollSame v hslot hf hv => exact .inr ⟨v, hslot, .inl ⟨hf, hv, hf, rfl⟩⟩
  | pollDiff v hslot hf hv => exact .inr ⟨v, hslot, .inr (.inl ⟨hf, hv, rfl, rfl, rfl⟩)⟩
  | writeA v hslot hf hp => exact .inr ⟨v, hslot, .inr (.inr (.inl ⟨hf, hp, hf, rfl, rfl⟩))⟩
  | writeB v hslot hf hp => exact .inr ⟨v, hslot, .inr (.inr (.inr (.inl ⟨hf, hp, hf, rfl, rfl⟩)))⟩
  | commit v hslot hf hp => exact .inr ⟨v, hslot, .inr (.inr (.inr (.inr ⟨hf, hp, rfl, rfl⟩)))⟩

/-- Settles O29: what is enabled follows FSM and PHASE, and each row reads only what the two states share. -/
theorem exactlyOneOperationEnabled : Obligations.ExactlyOneOperationEnabled :=
  ⟨fun s => ⟨rfl, fun _ ho => enabled_iff_selectedOp s ho⟩,
    fun _ _ _ _ hregs hslots hs' ht' => hregs.after_step hslots hs' ht'⟩

/-- Settles O30: every operation inside APPLYING brings the next POLL nearer, and the block gets its turn again. -/
theorem neverHaltsAndPollsWithinThree : Obligations.NeverHaltsAndPollsWithinThree := by
  refine ⟨fun s => ⟨step_next s, ?_⟩, fun s n => ?_, fun s => ?_⟩
  · obtain ⟨k, hk, hpoll⟩ := exists_poll_selected s
    exact ⟨k, hk.trans (opsToPoll_le s), hpoll⟩
  · obtain ⟨m, v, hm, hslot⟩ := exists_pins_slot s n
    exact ⟨m, hm, performedOp_pins hslot⟩
  · obtain ⟨k, hpoll, hk⟩ := exists_poll_performed s
    exact ⟨k, hpoll, hk.trans (opsToPoll_le s)⟩

/-- Settles O33: inside APPLYING each operation takes its values from SNAP; COMMIT stores it, and the next POLL compares
with that. -/
theorem pinsAreNotReadInsideApplying : Obligations.PinsAreNotReadInsideApplying := by
  refine ⟨fun s v w rest t u hf ht hu => ?_, fun s v w x y z rest hf hv henv => ?_⟩
  · exact step_applying_of_pins hf ht hu
  · have h4 := stepMany_four_diff hf (zext8_snapshot v ▸ hv) henv
    have hidle : (stepMany 4 s).fsm = .idle := by
      rw [h4]
      rfl
    have hprev : (stepMany 4 s).prev = v &&& Config.selMask := by
      rw [h4, ← zext8_snapshot]
      rfl
    have hslot : (stepMany 4 s).nextSlot = .pins z := nextSlot_of_env (rest := rest) (h4 ▸ rfl)
    refine ⟨hidle, hprev, ?_⟩
    rw [step_poll_applying_iff hslot hidle (step_stepMany 4 s), hprev]
    rfl

/-- Settles O34: the four operations of an applied change, and the two writes among their events. -/
theorem everyChangeWritesBothRegistersOnce : Obligations.EveryChangeWritesBothRegistersOnce := by
  intro s v w x y rest hf hv henv
  obtain ⟨-, hocr, hevents⟩ := stepMany_four_effect hf hv henv
  rw [codeOf_a_snapshot, codeOf_b_snapshot] at hevents
  refine ⟨hevents, (hocr .a).trans ?_, (hocr .b).trans ?_, fun c => ?_⟩
  · rw [codeOf_a_snapshot]; rfl
  · rw [codeOf_b_snapshot]; rfl
  · rw [hevents, writeCount_append]
    cases c <;> rfl

/-- Settles O36: of the six rows only RESET and COMMIT write PREV, and an iteration's COMMIT stores what its POLL
latched. -/
theorem cacheHoldsTheAppliedSnapshot : Obligations.CacheHoldsTheAppliedSnapshot := by
  refine ⟨fun s t h hne => ?_, fun s t v hf hp hslot h => ?_, fun s v w x y rest hf hv henv => ?_⟩
  · cases step_eq_next_iff.1 h with
    | reset hslot => exact .inl ⟨hslot, rfl⟩
    | commit v hslot hf hp => exact .inr ⟨hf, hp, rfl, rfl, rfl⟩
    | pollSame | pollDiff | writeA | writeB => exact absurd rfl hne
  · obtain rfl := step_unique (step_commit hslot hf hp) h
    rfl
  · rw [stepMany_four_diff hf (zext8_snapshot v ▸ hv) henv]
    exact ⟨zext8_snapshot v, zext8_snapshot v⟩

/-- Settles O37: the one-field change on either channel. That PREV's bits 7:6 are 0 is not needed. -/
theorem channelsAreIndependent : Obligations.ChannelsAreIndependent := by
  intro s v hf hsync _
  simp only [← codeOf_a_snapshot, ← codeOf_b_snapshot]
  exact ⟨fun hb ha => runTrace_pin_of_one_field hf hsync ha hb, fun ha hb => runTrace_pin_of_one_field hf hsync hb ha⟩

/-- Settles O44: at CM both registers hold the latched snapshot's divisors, which PREV takes; and two states with the
invariant that are not synchronised. -/
theorem synchronisedAfterCommit : Obligations.SynchronisedAfterCommit := by
  refine ⟨fun s t v hinv hf hp hslot h => ?_, fun s t v hsync hf hslot hv h => ?_,
    ⟨beforeFirstCommit, beforeFirstCommit_inv, rfl, rfl, ?_⟩,
    ⟨betweenTheWrites, betweenTheWrites_inv, rfl, by decide, ?_⟩⟩
  · obtain rfl := step_unique (step_commit hslot hf hp) h
    have ha : s.ocra = s.divisor .a := hinv.newA hf (by simp [hp])
    have hb : s.ocrb = s.divisor .b := hinv.newB hf hp
    have hsnap : snapshot (commit s.tick).prev = s.snap := snapshot_zext8 s.snap
    exact ⟨by rw [hsnap]; exact ha, by rw [hsnap]; exact hb⟩
  · obtain rfl := step_unique (step_poll_same hslot hf hv) h
    exact ⟨hsync, hf⟩
  · exact fun ⟨ha, _⟩ => absurd ha (by decide)
  · exact fun ⟨ha, _⟩ => absurd ha (by decide)

/-- Settles O20: the two outcomes of a POLL, with the environment's move written out. -/
theorem pollReadsAndDetectsChange : Obligations.PollReadsAndDetectsChange := by
  intro s v hf hslot
  split
  · next hv => rw [step_poll_same hslot hf hv, tick_of_pins hslot]; rfl
  · next hv => rw [step_poll_diff hslot hf hv, tick_of_pins hslot]; rfl

/-- Settles O21: WRITE_A, with the environment's move written out. -/
theorem writeALoadsOcra : Obligations.WriteALoadsOcra := by
  intro s v hf hp hslot
  rw [step_writeA hslot hf hp, tick_of_pins hslot]
  rfl

/-- Settles O22: WRITE_B, with the environment's move written out. -/
theorem writeBLoadsOcrb : Obligations.WriteBLoadsOcrb := by
  intro s v hf hp hslot
  rw [step_writeB hslot hf hp, tick_of_pins hslot]
  rfl

/-- Settles O23: COMMIT, with the environment's move written out. -/
theorem commitStoresSnapshot : Obligations.CommitStoresSnapshot := by
  intro s v hf hp hslot
  rw [step_commit hslot hf hp, tick_of_pins hslot]
  rfl

end Sys2Proof.Machine

/-! SUPPORT and PROOFS for the statements about reset and hazards (70_reset_and_hazards.md): one `PIN` item as one update,
a change that a reset cuts short, a move among aliased codes, and then the proofs that settle the statements. -/

namespace Sys2Proof.Machine

/-! ### One `PIN` item as one update -/

/-- A `PIN` item from IDLE does its iteration's update (30_encoding.md R60, 41_poll_apply.md R84). -/
theorem runTrace_pin {s : State} (hf : s.fsm = .idle) (v : Byte) : runTrace [.pin v] s = some (afterIteration s v) :=
  runTrace_pins [v] hf

/-- A byte whose snapshot PREV holds already gives its read alone (41_poll_apply.md R84). -/
theorem iterationEvents_same {v prev : Byte} (hv : zext8 (snapshot v) = prev) : iterationEvents v prev = [.rd v] :=
  if_pos hv

/-- A byte with a new snapshot gives its read and the writes of its two codes' divisors (41_poll_apply.md R84). -/
theorem iterationEvents_diff {v prev : Byte} (hv : zext8 (snapshot v) ≠ prev) :
    iterationEvents v prev =
      [.rd v, .wr .a (div (v.extractLsb' 0 3).toNat), .wr .b (div (v.extractLsb' 3 3).toNat)] := by
  rw [iterationEvents, if_neg hv, codeOf_a_snapshot, codeOf_b_snapshot]
  rfl

/-- An applied change leaves each register with its field's divisor (41_poll_apply.md R84). -/
theorem afterChange_ocr (s : State) (v : Byte) (x : Channel) :
    (afterChange s v).ocr x = divCode (codeOf x (snapshot v)) := by
  cases x <;> rfl

/-- An applied change synchronises the block, whatever the registers held (41_poll_apply.md R94). -/
theorem synchronised_afterChange (s : State) (v : Byte) : synchronised (afterChange s v) := by
  refine (synchronised_iff _).2 fun x => (afterChange_ocr s v x).trans ?_
  exact congrArg (fun u => divCode (codeOf x u)) (snapshot_zext8 (snapshot v)).symm

/-- Bytes whose snapshot PREV holds already change no register of the block (41_poll_apply.md R87). -/
theorem foldl_afterIteration_registers_of_same (vs : List Byte) {s : State}
    (hvs : ∀ w ∈ vs, zext8 (snapshot w) = s.prev) :
    (vs.foldl afterIteration s).ocra = s.ocra ∧ (vs.foldl afterIteration s).ocrb = s.ocrb ∧
      (vs.foldl afterIteration s).prev = s.prev := by
  induction vs generalizing s with
  | nil => exact ⟨rfl, rfl, rfl⟩
  | cons v vs ih =>
    obtain ⟨hv, hrest⟩ := List.forall_mem_cons.1 hvs
    rw [List.foldl_cons, afterIteration_same hv]
    exact ih (s := afterNoChange s v) hrest

/-- Against the PREV that a reset leaves, a snapshot is a change exactly if it is not zero (70_reset_and_hazards.md
R123). -/
theorem zext8_eq_zero_iff (u : Snap) : zext8 u = 0 ↔ u = 0 :=
  ⟨fun h => zext8_injective (t := 0) h, fun h => h ▸ rfl⟩

/-! ### A reset that cuts an applied change -/

/-- The schedule of an applied change cut at position `p` (30_encoding.md R60). -/
theorem traceSlots_pin_resetAt {v prev : Byte} (hv : zext8 (snapshot v) ≠ prev) (p : Phase) :
    traceSlots prev [.pin v, .resetAt p] = some (List.replicate (opsBefore p) (.pins v) ++ [.reset]) := by
  simp [traceSlots, (changed_iff _ _).2 hv]

/-- The operations before position `p` have made as many of the iteration's events, one each (41_poll_apply.md R80 to
R82). -/
theorem stepMany_opsBefore_events {s : State} {v : Byte} (p : Phase) {rest : List EnvSlot} (hf : s.fsm = .idle)
    (hv : zext8 (snapshot v) ≠ s.prev) (henv : s.env = List.replicate (opsBefore p) (.pins v) ++ rest) :
    (stepMany (opsBefore p) s).events = s.events ++ (iterationEvents v s.prev).take (opsBefore p) := by
  have hmask : v &&& Config.selMask ≠ s.prev := zext8_snapshot v ▸ hv
  rw [iterationEvents, if_neg hv]
  cases p with
  | wa => simp [opsBefore, stepMany_one_of_change hf hmask henv]
  | wb => simp [opsBefore, stepMany_two_of_change hf hmask henv, stepMany_one_of_change hf hmask henv]
  | cm =>
    simp [opsBefore, stepMany_three_of_change hf hmask henv, stepMany_two_of_change hf hmask henv,
      stepMany_one_of_change hf hmask henv]

/-- A run that a reset ends is the reset of what the operations before it left. -/
theorem stepMany_succ_of_reset {s : State} {slots rest : List EnvSlot} (henv : s.env = slots ++ .reset :: rest) :
    stepMany (slots.length + 1) s = takeReset (stepMany slots.length s).tick := by
  have hslot : (stepMany slots.length s).nextSlot = .reset :=
    nextSlot_of_env (rest := rest) (by rw [stepMany_env, henv, List.drop_left])
  exact stepMany_succ_eq (step_reset hslot)

/-- An applied change cut at position `p` keeps the events made before, and leaves PREV 0 and FSM IDLE
(70_reset_and_hazards.md R137). -/
theorem runTrace_pin_resetAt {s : State} {v : Byte} (hf : s.fsm = .idle) (hv : zext8 (snapshot v) ≠ s.prev)
    (p : Phase) :
    ∃ t, runTrace [.pin v, .resetAt p] s = some t ∧ t.prev = 0 ∧ t.fsm = .idle ∧
      t.events = s.events ++ (iterationEvents v s.prev).take (opsBefore p) := by
  refine ⟨_, runTrace_of_slots (traceSlots_pin_resetAt hv p), ?_⟩
  rw [List.length_append, List.length_singleton, stepMany_succ_of_reset (rest := s.env) (by simp),
    List.length_replicate]
  refine ⟨rfl, rfl, ?_⟩
  exact stepMany_opsBefore_events (rest := .reset :: s.env) p hf hv (by simp)

/-! ### A move among the codes with the default divisor -/

theorem eq_or_eq_of_channel_ne {x y : Channel} (h : x ≠ y) (z : Channel) : z = x ∨ z = y := by
  cases x <;> cases y <;> cases z <;> simp_all

/-- From a synchronised state, a byte with another of the codes 1, 6 and 7 on one channel and the same code on the other
commands the divisors that the registers hold (70_reset_and_hazards.md R138). -/
theorem divCode_eq_ocr_of_aliased_move {s : State} {v : Byte} {x y : Channel} (hxy : x ≠ y) (hsync : synchronised s)
    (hold : codeOf x (snapshot s.prev) ∈ ([1, 6, 7] : List Code))
    (hnew : codeOf x (snapshot v) ∈ ([1, 6, 7] : List Code))
    (hkeep : codeOf y (snapshot v) = codeOf y (snapshot s.prev)) (z : Channel) :
    divCode (codeOf z (snapshot v)) = s.ocr z := by
  rw [(synchronised_iff s).1 hsync z]
  obtain rfl | rfl := eq_or_eq_of_channel_ne hxy z
  · rw [divCode_of_default_code hold, divCode_of_default_code hnew]
  · rw [hkeep]

/-! ### The statements -/

/-- Settles O49: PREV is 0 and stays 0, so every zero snapshot finds no change. -/
theorem zeroPinsAfterResetWriteNothing : Obligations.ZeroPinsAfterResetWriteNothing := by
  intro s vs hf hprev hvs
  have hsame : ∀ w ∈ vs, zext8 (snapshot w) = s.prev := fun w hw => by
    rw [hprev, zext8_eq_zero_iff]
    exact hvs w hw
  obtain ⟨hocra, hocrb, hkept⟩ := foldl_afterIteration_registers_of_same vs hsame
  exact ⟨_, runTrace_pins vs hf, hocra, hocrb, foldl_afterIteration_idle vs hf, hkept.trans hprev,
    foldl_afterIteration_events_of_same vs hsame⟩

/-- Settles O48: the iteration after the reset compares with 0. -/
theorem resynchronisesAfterReset : Obligations.ResynchronisesAfterReset := by
  intro s v hslot
  have hidle : (takeReset s.tick).fsm = .idle := rfl
  refine ⟨_, _, step_reset hslot, runTrace_pin hidle v, afterIteration_idle hidle v,
    (afterIteration_prev _ v).trans (zext8_snapshot v), fun hv => ?_, fun hv => ?_⟩
  · have hdiff : zext8 (snapshot v) ≠ (takeReset s.tick).prev := mt (zext8_eq_zero_iff (snapshot v)).1 hv
    refine ⟨afterIteration_diff hdiff ▸ synchronised_afterChange _ v, ?_⟩
    rw [afterIteration_events, iterationEvents_diff hdiff, takeReset_events, tick_events]
  · have hsame : zext8 (snapshot v) = (takeReset s.tick).prev := (zext8_eq_zero_iff (snapshot v)).2 hv
    rw [afterIteration_events, iterationEvents_same hsame, takeReset_events, tick_events]

/-- Settles O50: the cut change at each of the three positions, its events written out. -/
theorem resetInsideApplying : Obligations.ResetInsideApplying := by
  intro s v hf hv
  have hdiff : zext8 (snapshot v) ≠ s.prev := (zext8_snapshot v).symm ▸ hv
  have hcut := runTrace_pin_resetAt hf hdiff
  rw [iterationEvents_diff hdiff] at hcut
  exact ⟨hcut .wa, hcut .wb, hcut .cm⟩

/-- Settles O51: the new code differs, so the change is applied, and it loads what the registers hold. That PREV's bits
7:6 are 0 is not needed. -/
theorem aliasedCodesRewriteTheSameValues : Obligations.AliasedCodesRewriteTheSameValues := by
  intro s v x y hxy hf hsync _ hold hnew hmove hkeep
  have hdiff : zext8 (snapshot v) ≠ s.prev := (zext8_snapshot v).symm ▸ and_selMask_ne_of_codeOf_ne hmove
  have hdiv := divCode_eq_ocr_of_aliased_move hxy hsync hold hnew hkeep
  have hevents : iterationEvents v s.prev = [.rd v, .wr .a s.ocra, .wr .b s.ocrb] := by
    rw [iterationEvents, if_neg hdiff, hdiv .a, hdiv .b]
    rfl
  refine ⟨_, runTrace_pin hf v, ?_, ?_, (afterIteration_prev s v).trans (zext8_snapshot v),
    hevents ▸ afterIteration_events s v⟩
  · rw [afterIteration_diff hdiff]
    exact hdiv .a
  · rw [afterIteration_diff hdiff]
    exact hdiv .b

/-- Settles O24: the RESET row, taken once and twice. -/
theorem resetTakesTheOperationsPlace : Obligations.ResetTakesTheOperationsPlace := by
  refine ⟨fun s hslot => ⟨_, step_reset hslot, rfl, rfl, rfl⟩, fun s t u hs ht hst htu => ?_⟩
  obtain rfl := step_unique (step_reset hs) hst
  obtain rfl := step_unique (step_reset ht) htu
  exact ⟨rfl, rfl, rfl⟩

end Sys2Proof.Machine

/-! SUPPORT and PROOFS for the statements about words, instructions and written traces (30_encoding.md) and about the
informative columns of the table (40_divisor_table.md): the round trip of a word, the frame of a channel's write, the
expansion of a line, and then the proofs that settle the statements. -/

namespace Sys2Proof

/-! ### The round trip of a word -/

/-- A byte put together from bits 7:6 and two codes gives each of them back (30_encoding.md R50, R52). -/
theorem fields_of_append (u : BitVec 2) (b a : Code) :
    codeOf .a (snapshot (u ++ b ++ a)) = a ∧ codeOf .b (snapshot (u ++ b ++ a)) = b ∧
      (u ++ b ++ a).extractLsb' 6 2 = u := by
  revert u b a; decide

/-- A byte is its bits 7:6 and its two codes side by side (30_encoding.md R50, R52). -/
theorem append_of_fields (v : Byte) :
    v.extractLsb' 6 2 ++ codeOf .b (snapshot v) ++ codeOf .a (snapshot v) = v := by
  revert v; decide

theorem Word8.wf_iff (w : Word8) : w.wf = true ↔ w.onA.channel = .a ∧ w.onB.channel = .b := by
  simp [Word8.wf]

theorem decode_wf (v : Byte) : (decode v).wf = true :=
  (Word8.wf_iff _).2 ⟨rowA_channel _, rowB_channel _⟩

/-- Channel A's instruction stands first and channel B's second, so the decoder gives back the word that was encoded
(30_encoding.md R56). -/
theorem decode_encodeWord {w : Word8} (u : BitVec 2) (hw : w.wf = true) : decode (encodeWord u w) = w := by
  obtain ⟨hA, hB⟩ := (Word8.wf_iff w).1 hw
  obtain ⟨ha, hb, -⟩ := fields_of_append u w.onB.code w.onA.code
  simp only [decode, encodeWord, decodeOn_a, decodeOn_b, ha, hb, rowA_of_channel hA, rowB_of_channel hB]

theorem encodeWord_high (u : BitVec 2) (w : Word8) : (encodeWord u w).extractLsb' 6 2 = u := by
  obtain ⟨-, -, hu⟩ := fields_of_append u w.onB.code w.onA.code
  exact hu

/-- A byte's own bits 7:6 and its two instructions give the byte back (30_encoding.md R50). -/
theorem encodeWord_decode (v : Byte) : encodeWord (v.extractLsb' 6 2) (decode v) = v := by
  simp only [encodeWord, decode, decodeOn_a, decodeOn_b, rowA_code, rowB_code, append_of_fields]

/-! ### The encoding of one instruction -/

/-- A row's match lies inside its mask (30_encoding.md R55). -/
theorem matchBits_and_maskBits (i : Instr) : i.matchBits &&& i.maskBits = i.matchBits := by
  cases i <;> rfl

theorem encode_and_maskBits (i : Instr) (rest : Byte) : encode i rest &&& i.maskBits = i.matchBits := by
  have hfree : rest &&& ~~~ i.maskBits &&& i.maskBits = 0#8 := by
    rw [BitVec.and_assoc, BitVec.and_comm (~~~ i.maskBits), BitVec.and_not_self]
    exact BitVec.and_zero
  rw [encode, BitVec.and_or_distrib_right, hfree, matchBits_and_maskBits, BitVec.zero_or]

/-- Outside the row's mask the encoder keeps the bits it is given (30_encoding.md R50). -/
theorem encode_and_not_maskBits (i : Instr) (rest : Byte) :
    encode i rest &&& ~~~ i.maskBits = rest &&& ~~~ i.maskBits := by
  have hmatch : i.matchBits &&& ~~~ i.maskBits = 0#8 := by
    rw [← matchBits_and_maskBits, BitVec.and_assoc, BitVec.and_not_self]
    exact BitVec.and_zero
  rw [encode, BitVec.and_or_distrib_right, hmatch, BitVec.and_assoc, BitVec.and_self, BitVec.or_zero]

@[simp] theorem decodeOn_channel (x : Channel) (s : Snap) : (decodeOn x s).channel = x := by
  cases x with
  | a => exact rowA_channel _
  | b => exact rowB_channel _

@[simp] theorem decodeOn_code (x : Channel) (s : Snap) : (decodeOn x s).code = codeOf x s := by
  cases x with
  | a => exact rowA_code _
  | b => exact rowB_code _

end Sys2Proof

namespace Sys2Proof.Machine

/-! ### Rate names -/

/-- A rate name of R61 is read as the code whose row it names (30_encoding.md R55, R61). -/
theorem rateCode_of_rateName {c : Code} {r : Nat} (h : rateName c = some r) : rateCode r = some c.toNat := by
  have hrows : ∀ c : Code, ∀ r ∈ (rateName c).toList, rateCode r = some c.toNat := by decide
  exact hrows c r (by simpa using h)

/-- What is no row's rate name has no code (30_encoding.md R61). -/
theorem rateCode_eq_none {r : Nat} (h : ∀ c : Code, rateName c ≠ some r) : rateCode r = none := by
  have hne : r ≠ 4800 ∧ r ≠ 9600 ∧ r ≠ 19200 ∧ r ≠ 38400 ∧ r ≠ 57600 ∧ r ≠ 115200 := by
    refine ⟨?_, ?_, ?_, ?_, ?_, ?_⟩ <;> rintro rfl
    exacts [h 0 rfl, h 1 rfl, h 2 rfl, h 3 rfl, h 4 rfl, h 5 rfl]
  simp [rateCode, hne]

/-- In every named row (divisor + 1) x rate name x mode is one number (40_divisor_table.md R76). -/
theorem named_row_product {c : Code} {r : Nat} (h : rateName c = some r) :
    ((div c.toNat).toNat + 1) * r * rateMode c = 1843200 := by
  have hrows : ∀ c : Code, ∀ r ∈ (rateName c).toList,
      ((div c.toNat).toNat + 1) * r * rateMode c = 1843200 := by decide
  exact hrows c r (by simpa using h)

/-- A timer clock that is (divisor + 1) times `f` gives the frequency `f` (60_exceptions.md R109). -/
theorem timerFrequency_of_product {d : Byte} {k f : Nat} (h : (d.toNat + 1) * f = k) :
    timerFrequency k d = f := by
  rw [timerFrequency, div_eq_iff (by positivity), ← h]
  push_cast
  ring

/-! ### The write of a channel -/

section WriteChannel

variable (x : Channel) (d : Byte) (s : State)

@[simp] theorem writeChannel_prev : (writeChannel x d s).prev = s.prev := by cases x <;> rfl

@[simp] theorem writeChannel_snap : (writeChannel x d s).snap = s.snap := by cases x <;> rfl

@[simp] theorem writeChannel_fsm : (writeChannel x d s).fsm = s.fsm := by cases x <;> rfl

@[simp] theorem writeChannel_env : (writeChannel x d s).env = s.env := by cases x <;> rfl

@[simp] theorem writeChannel_draws : (writeChannel x d s).draws = s.draws := by cases x <;> rfl

@[simp] theorem writeChannel_events : (writeChannel x d s).events = s.events ++ [.wr x d] := by cases x <;> rfl

/-- A channel's compare register is the byte at the channel's location (20_memory.md R30). -/
theorem ioByte_ocrLoc : s.ioByte (ocrLoc x) = s.ocr x := by cases x <;> rfl

@[simp] theorem writeChannel_ocr_same : (writeChannel x d s).ocr x = d := by cases x <;> rfl

/-- Every byte of the I/O space but the channel's own register reads as before (10_state.md R20). -/
theorem writeChannel_ioByte_of_ne {l : IoLoc} (h : l ≠ ocrLoc x) : (writeChannel x d s).ioByte l = s.ioByte l := by
  cases x with
  | a => cases l with
    | ocra => exact absurd rfl h
    | pin | ocrb => rfl
  | b => cases l with
    | ocrb => exact absurd rfl h
    | pin | ocra => rfl

/-- The other channel's register keeps its value (20_memory.md R38). -/
theorem writeChannel_ocr_of_ne {y : Channel} (h : y ≠ x) : (writeChannel x d s).ocr y = s.ocr y := by
  cases x with
  | a => cases y with
    | a => exact absurd rfl h
    | b => rfl
  | b => cases y with
    | a => rfl
    | b => exact absurd rfl h

end WriteChannel

/-! ### The instruction that a step runs -/

/-- At a channel's position a step runs the latched snapshot's instruction on the channel (41_poll_apply.md R81,
R82). -/
theorem step_eq_exec {s : State} {v : Byte} {x : Channel} (h : s.nextSlot = .pins v) (hf : s.fsm = .applying)
    (hp : s.phase = writePhase x) : step s = exec (decodeOn x s.snap) s.tick := by
  cases x with
  | a => exact step_writeA_exec h hf hp
  | b => exact step_writeB_exec h hf hp

/-- At a channel's position the latched snapshot's instruction is the channel's WRITE (41_poll_apply.md R81, R82). -/
theorem exec_decodeOn {s : State} {x : Channel} (hf : s.fsm = .applying) (hp : s.phase = writePhase x) :
    exec (decodeOn x s.snap) s = .next (writeChannel x (s.divisor x) s) := by
  have happlied : applied x (codeOf x s.snap) s = true := (applied_iff x _ s).2 ⟨hf, hp, rfl⟩
  rw [exec_of_applied (by simpa using happlied), decodeOn_channel, decodeOn_code]
  rfl

/-- A table word that can be read is a byte, and it is read on the channel picked for it (log 7). -/
theorem decodeTableWord_eq_some {w : Nat} {i : Instr} (h : decodeTableWord 8 w = some i) :
    i = decodeOn (tableChannel (BitVec.ofNat 8 w)) (snapshot (BitVec.ofNat 8 w)) := by
  unfold decodeTableWord at h
  split at h
  · exact (Option.some.inj h).symm
  · cases h

/-! ### The expansion of a line -/

/-- A line that expands to one `PIN` item presents its byte: a `HOLD` behind it repeats that (30_encoding.md R61). -/
theorem linePresents_of_expand {line : TraceLine} {v : Byte}
    (h : ∀ l rest, expandLines l (line :: rest) = (expandLines (some v) rest).map (.pin v :: ·)) :
    linePresents line v := by
  refine fun l n rest => ⟨h l rest, ?_⟩
  rw [h, expandLines, Option.map_map]
  rfl

/-- `SEL a, b` presents `8 b + a` (30_encoding.md R61). -/
theorem selByte_eq {a b : Nat} (ha : a ≤ 7) (hb : b ≤ 7) : selByte a b = BitVec.ofNat 8 (8 * b + a) := by
  have hcodes : ∀ a < 8, ∀ b < 8, selByte a b = BitVec.ofNat 8 (8 * b + a) := by decide
  exact hcodes a (by omega) b (by omega)

theorem expandLines_sel {a b : Nat} (ha : a ≤ 7) (hb : b ≤ 7) (l : Option Byte) (rest : List TraceLine) :
    expandLines l (.sel a b :: rest) = (expandLines (some (selByte a b)) rest).map (.pin (selByte a b) :: ·) := by
  rw [expandLines, if_pos ⟨ha, hb⟩]

theorem expandLines_selRate {ra rb a b : Nat} (ha : rateCode ra = some a) (hb : rateCode rb = some b)
    (l : Option Byte) (rest : List TraceLine) :
    expandLines l (.selRate ra rb :: rest) =
      (expandLines (some (selByte a b)) rest).map (.pin (selByte a b) :: ·) := by
  simp only [expandLines, ha, hb]

/-- A rate name without a code leaves the line without an expansion (log 10). -/
theorem expandLines_selRate_none {ra rb : Nat} (h : rateCode ra = none ∨ rateCode rb = none) (l : Option Byte)
    (rest : List TraceLine) : expandLines l (.selRate ra rb :: rest) = none := by
  rcases h with h | h
  · simp only [expandLines, h]
  · cases ha : rateCode ra <;> simp only [expandLines, ha, h]

theorem expandLines_hold (v : Byte) (n : Nat) (rest : List TraceLine) :
    expandLines (some v) (.hold n :: rest) =
      (expandLines (some v) rest).map (List.replicate n (.pin v) ++ ·) := rfl

/-- One `HOLD` after another adds its repetitions (30_encoding.md R61). -/
theorem expandLines_hold_hold (l : Option Byte) (m n : Nat) (rest : List TraceLine) :
    expandLines l (.hold m :: .hold n :: rest) = expandLines l (.hold (m + n) :: rest) := by
  cases l with
  | none => rfl
  | some v =>
    simp only [expandLines_hold, Option.map_map, List.replicate_add, List.append_assoc, Function.comp_def]

/-- A reset item presents nothing (30_encoding.md R60, log 10). -/
theorem expandLines_item_of_no_byte {i : TraceItem} (h : itemByte i = none) (l : Option Byte)
    (rest : List TraceLine) : expandLines l (.item i :: rest) = (expandLines l rest).map (i :: ·) := by
  cases i with
  | pin v => cases h
  | reset | resetAt p => rfl

/-- A written trace has an expansion exactly if every line meets its condition (30_encoding.md R61, log 10). -/
theorem expandLines_isSome (l : Option Byte) (ls : List TraceLine) :
    (expandLines l ls).isSome = linesWf l.isSome ls := by
  induction ls generalizing l with
  | nil => rfl
  | cons line ls ih =>
    cases line with
    | item i => cases i <;> simp [expandLines, linesWf, TraceLine.wf, TraceLine.isPin, ih]
    | sel a b =>
      by_cases hab : a ≤ 7 ∧ b ≤ 7
      · simp [expandLines, linesWf, TraceLine.wf, TraceLine.isPin, ih, hab]
      · have hwf : (TraceLine.sel a b).wf l.isSome = false := by simpa [TraceLine.wf] using hab
        simp [expandLines, linesWf, hab, hwf]
    | selRate ra rb =>
      cases ha : rateCode ra <;> cases hb : rateCode rb <;>
        simp [expandLines, linesWf, TraceLine.wf, TraceLine.isPin, ih, ha, hb]
    | hold n => cases l <;> simp [expandLines, linesWf, TraceLine.wf, TraceLine.isPin, ih]

/-! ### The statements -/

/-- Settles O17: the round trip of one word and of one byte, along the list. -/
theorem byteStringsDecodeAndEncode : Obligations.ByteStringsDecodeAndEncode := by
  refine ⟨fun ws hws => ⟨?_, ?_⟩, fun vs => ⟨?_, ?_⟩⟩
  · rw [decodeAll, encodeAll, List.map_map]
    exact List.map_congr_left fun p hp => decode_encodeWord p.1 (hws p hp)
  · rw [encodeAll, List.map_map]
    exact List.map_congr_left fun p _ => encodeWord_high p.1 p.2
  · exact List.forall_mem_map.2 fun v _ => decode_wf v
  · induction vs with
    | nil => rfl
    | cons v vs ih => exact congrArg₂ List.cons (encodeWord_decode v) ih

/-- Settles O9: an instruction does nothing or makes its channel's write. -/
theorem instructionsTouchOnlyTheirOwnChannel : Obligations.InstructionsTouchOnlyTheirOwnChannel := by
  intro i s t h
  rw [exec_eq] at h
  obtain rfl := Host.Outcome.next.inj h
  rcases applyCode_cases i.channel i.code s with hnone | hwrite
  · rw [hnone]
    exact ⟨rfl, rfl, rfl, rfl, rfl, fun _ _ => rfl, .inl rfl⟩
  · rw [hwrite]
    refine ⟨writeChannel_prev _ _ s, writeChannel_snap _ _ s, writeChannel_fsm _ _ s, writeChannel_env _ _ s,
      writeChannel_draws _ _ s, fun l hl => writeChannel_ioByte_of_ne _ _ s hl,
      .inr ⟨writeChannel_events _ _ s, ?_, rfl⟩⟩
    rw [ioByte_ocrLoc]
    exact writeChannel_ocr_same _ _ s

/-- Settles O19: an equation for each kind of line, and what an expansion of lines in a row is. -/
theorem pseudoItemsExpand : Obligations.PseudoItemsExpand := by
  refine ⟨fun v => linePresents_of_expand fun _ _ => rfl, fun a b ha hb => ?_, fun a b ra rb ha hb => ?_,
    expandLines_hold_hold, fun l i rest hi => expandLines_item_of_no_byte hi l rest, fun l a b rest hab => ?_,
    fun l ra rb rest hr => expandLines_selRate_none (hr.imp rateCode_eq_none rateCode_eq_none) l rest,
    fun _ _ => rfl, fun l ls items n rest v hitems hv => ?_, expandLines_isSome⟩
  · exact selByte_eq ha hb ▸ linePresents_of_expand (expandLines_sel ha hb)
  · have hcode : ∀ c : Code, c.toNat ≤ 7 := fun c => Nat.le_of_lt_succ c.isLt
    exact selByte_eq (hcode a) (hcode b) ▸
      linePresents_of_expand (expandLines_selRate (rateCode_of_rateName ha) (rateCode_of_rateName hb))
  · rw [expandLines, if_neg (by omega)]
  · rw [expandLines_append, hitems, Option.bind_some, hv, expandLines_hold, Option.map_map]
    simp only [Function.comp_def, List.append_assoc]

/-- Settles O10: each of the three conditions keeps the code from being applied. -/
theorem instructionsNotAppliedDoNothing : Obligations.InstructionsNotAppliedDoNothing := by
  intro i s h
  have happlied : applied i.channel i.code s = false := by
    rw [Bool.eq_false_iff, ne_eq, applied_iff]
    rintro ⟨hf, hp, hc⟩
    rcases h with hidle | hphase | hcode
    · rw [hf] at hidle; cases hidle
    · exact hphase hp
    · exact hcode hc
  rw [exec_eq, applyCode_idle happlied]

/-- Settles O13: the product of the row is the timer clock, so the frequency is rate name times mode. -/
theorem outputClockIsRateTimesMode : Obligations.OutputClockIsRateTimesMode := by
  intro c r hr
  have hproduct := named_row_product hr
  refine ⟨hproduct, fun i x s hdone hocr => ?_⟩
  have hfrequency := timerFrequency_of_product (hocr ▸ (Nat.mul_assoc ..).symm.trans hproduct)
  rw [outputFrequency, if_pos hdone]
  exact congrArg some (by exact_mod_cast hfrequency)

/-- Settles O16: the encoded byte matches the row, and the decoder gives the row that a byte matches (O15). -/
theorem encodedInstructionDecodesToItself : Obligations.EncodedInstructionDecodesToItself := by
  intro i rest
  have hmatch := encode_and_maskBits i rest
  refine ⟨?_, by simpa [Instr.matchesWord] using hmatch, encode_and_not_maskBits i rest⟩
  obtain ⟨hA, hB, -⟩ := decodingIsTotalAndUnambiguous (encode i rest) i
  cases hx : i.channel with
  | a => exact ((hA hx).1 (by simpa [Instr.maskBits, hx] using hmatch)).symm
  | b => exact ((hB hx).1 (by simpa [Instr.maskBits, hx] using hmatch)).symm

/-- Settles O18: by evaluation of the decoder. -/
theorem wordsWrittenOutDecode : Obligations.WordsWrittenOutDecode := by
  unfold Obligations.WordsWrittenOutDecode
  decide

/-- Settles O26: the latched snapshot carries the same instructions as every word that has it. -/
theorem stepRunsTheDecodedInstruction : Obligations.StepRunsTheDecodedInstruction := by
  intro s v w hf hslot hw
  rw [← tick_of_pins hslot, decode, hw]
  exact ⟨fun hp => step_eq_exec (x := .a) hslot hf hp, fun hp => step_eq_exec (x := .b) hslot hf hp⟩

/-- Settles O27: the word is latched at its channel's position, so its code is applied. -/
theorem storedTableWordRunsNext : Obligations.StoredTableWordRunsNext := by
  intro s w i h
  obtain rfl := decodeTableWord_eq_some h
  have hstep : step (s.withFetchWord 8 w) = _ := step_eq_exec (x := tableChannel (BitVec.ofNat 8 w)) rfl rfl rfl
  have hexec := exec_decodeOn (s := (s.withFetchWord 8 w).tick) (x := tableChannel (BitVec.ofNat 8 w)) rfl rfl
  refine ⟨_, hstep.trans hexec, hexec, ?_⟩
  rw [decodeOn_channel, decodeOn_code]
  exact ⟨writeChannel_ocr_same _ _ _, writeChannel_events _ _ _, writeChannel_prev _ _ _, writeChannel_env _ _ _,
    fun x hx => writeChannel_ocr_of_ne _ _ _ hx⟩

end Sys2Proof.Machine

/-! SUPPORT and PROOFS for the statements about the operations' accesses and about what every step keeps (10_state.md,
20_memory.md, 41_poll_apply.md, 70_reset_and_hazards.md): the order of the operations, the invariant, two runs that
differ in the compare registers, the writes and the cycles of a stretch without reset, and then the proofs that settle
the statements. -/

namespace Sys2Proof.Machine

/-! ### The order of the operations and their accesses -/

/-- Which operation the block takes after which, where no reset falls between (41_poll_apply.md R85); `step_follows`
ties it to the step. -/
inductive Follows : Op → Op → Prop
  | noChange : Follows .poll .poll
  | change : Follows .poll .writeA
  | afterWriteA : Follows .writeA .writeB
  | afterWriteB : Follows .writeB .commit
  | afterCommit : Follows .commit .poll

/-- The accesses an operation makes where the pins present `v` (20_memory.md R33); `step_events` ties it to the step. -/
def opEvents (s : State) (v : Byte) (o : Op) : List Event :=
  match o with
  | .poll => [.rd v]
  | .writeA => [.wr .a (s.divisor .a)]
  | .writeB => [.wr .b (s.divisor .b)]
  | .commit => []
  | .reset => []

theorem selectedOp_idle {s : State} (hf : s.fsm = .idle) : selectedOp s = .poll :=
  (selectedOp_eq_poll_iff s).2 hf

theorem selectedOp_wa {s : State} (hf : s.fsm = .applying) (hp : s.phase = .wa) : selectedOp s = .writeA := by
  simp [selectedOp, hf, hp]

theorem selectedOp_wb {s : State} (hf : s.fsm = .applying) (hp : s.phase = .wb) : selectedOp s = .writeB := by
  simp [selectedOp, hf, hp]

theorem selectedOp_cm {s : State} (hf : s.fsm = .applying) (hp : s.phase = .cm) : selectedOp s = .commit := by
  simp [selectedOp, hf, hp]

/-- The block stands between WRITE_A and WRITE_B exactly if WRITE_B is selected (41_poll_apply.md R82, R90). -/
theorem selectedOp_eq_writeB_iff (s : State) : selectedOp s = .writeB ↔ s.fsm = .applying ∧ s.phase = .wb := by
  cases hf : s.fsm with
  | idle => simp [selectedOp, hf]
  | applying => cases hp : s.phase <;> simp [selectedOp, hf, hp]

section NoReset

variable {s t : State} {v : Byte}

/-- A step in which no reset fires goes on to the operation that follows (41_poll_apply.md R85). -/
theorem step_follows (hslot : s.nextSlot = .pins v) (h : step s = .next t) :
    Follows (selectedOp s) (selectedOp t) := by
  cases step_eq_next_iff.1 h with
  | reset hr => rw [hslot] at hr; cases hr
  | pollSame _ _ hf _ => rw [selectedOp_idle hf, selectedOp_idle (s := s.tick.emit _) hf]; exact .noChange
  | pollDiff _ _ hf _ => rw [selectedOp_idle hf]; exact .change
  | writeA _ _ hf hp =>
    rw [selectedOp_wa hf hp, selectedOp_wb (s := writeChannel .a _ s.tick) hf rfl]
    exact .afterWriteA
  | writeB _ _ hf hp =>
    rw [selectedOp_wb hf hp, selectedOp_cm (s := writeChannel .b _ s.tick) hf rfl]
    exact .afterWriteB
  | commit _ _ hf hp => rw [selectedOp_cm hf hp]; exact .afterCommit

/-- A step in which no reset fires makes the accesses of the operation that FSM and PHASE name, and no other
(20_memory.md R33). -/
theorem step_events (hslot : s.nextSlot = .pins v) (h : step s = .next t) :
    t.events = s.events ++ opEvents s v (selectedOp s) := by
  cases step_eq_next_iff.1 h with
  | reset hr => rw [hslot] at hr; cases hr
  | pollSame w hw hf _ =>
    obtain rfl := EnvSlot.pins.inj (hslot.symm.trans hw)
    rw [selectedOp_idle hf]
    rfl
  | pollDiff w hw hf _ =>
    obtain rfl := EnvSlot.pins.inj (hslot.symm.trans hw)
    rw [selectedOp_idle hf]
    rfl
  | writeA _ _ hf hp => rw [selectedOp_wa hf hp]; rfl
  | writeB _ _ hf hp => rw [selectedOp_wb hf hp]; rfl
  | commit _ _ hf hp => rw [selectedOp_cm hf hp]; exact (List.append_nil _).symm

end NoReset

/-- A step leaves in PIN what its slot presents (10_state.md R17). -/
theorem step_pin {s t : State} (h : step s = .next t) : t.pin = pinAfter s.nextSlot s.pin := by
  cases step_eq_next_iff.1 h <;> rfl

/-- Every divisor of a code is one of the table's, with bits 7:5 zero (30_encoding.md R54). -/
theorem divCode_mem_table (c : Code) :
    divCode c ∈ ([23, 11, 5, 2, 1, 15] : List Byte) ∧ (divCode c).extractLsb' 5 3 = 0 := by
  have hmem : divCode c ∈ namedDivisors := div_mem_namedDivisors c.toNat
  obtain ⟨-, -, hhigh, -⟩ := namedDivisors_bounds _ hmem
  exact ⟨hmem, hhigh⟩

/-! ### The invariant -/

/-- Before the first COMMIT an idle block has the invariant, whatever its registers hold (41_poll_apply.md R94). -/
theorem inv_of_idle_of_prev_zero {s : State} (hf : s.fsm = .idle) (hprev : s.prev = 0) : Inv s where
  prevHigh := by rw [hprev]; rfl
  differs h := by rw [hf] at h; cases h
  newA h := by rw [hf] at h; cases h
  newB h := by rw [hf] at h; cases h
  oldA h := absurd hprev h
  oldB h := absurd hprev h

/-- A synchronised idle block has the invariant (41_poll_apply.md R94). -/
theorem inv_of_idle_of_synchronised {s : State} (hf : s.fsm = .idle) (hhigh : s.prev.extractLsb' 6 2 = 0)
    (hsync : synchronised s) : Inv s where
  prevHigh := hhigh
  differs h := by rw [hf] at h; cases h
  newA h := by rw [hf] at h; cases h
  newB h := by rw [hf] at h; cases h
  oldA _ _ := hsync.1
  oldB _ _ := hsync.2

/-- An idle block with the invariant is synchronised unless PREV is 0 (41_poll_apply.md R94). -/
theorem Inv.synchronised_of_idle {s : State} (hinv : Inv s) (hf : s.fsm = .idle) (hprev : s.prev ≠ 0) :
    synchronised s :=
  ⟨hinv.oldA hprev (.inl hf), hinv.oldB hprev (.inl hf)⟩

/-- WRITE_A at WA makes channel A's register new and leaves channel B's old (41_poll_apply.md R81, R90). -/
theorem Inv.after_writeA {s : State} (hinv : Inv s) (hf : s.fsm = .applying) (hp : s.phase = .wa) :
    Inv (writeChannel .a (s.divisor .a) s.tick) where
  prevHigh := hinv.prevHigh
  differs _ := hinv.differs hf
  newA _ _ := rfl
  newB _ h := by cases h
  oldA _ h := by simp [hf] at h
  oldB hprev _ := hinv.oldB hprev (.inr (by simp [hp]))

/-- WRITE_B at WB makes channel B's register new as well (41_poll_apply.md R82, R90). -/
theorem Inv.after_writeB {s : State} (hinv : Inv s) (hf : s.fsm = .applying) (hp : s.phase = .wb) :
    Inv (writeChannel .b (s.divisor .b) s.tick) where
  prevHigh := hinv.prevHigh
  differs _ := hinv.differs hf
  newA _ _ := hinv.newA hf (by simp [hp])
  newB _ _ := rfl
  oldA _ h := by simp [hf] at h
  oldB _ h := by simp [hf] at h

/-- A POLL that finds a change touches neither PREV nor the compare registers (41_poll_apply.md R80). -/
theorem Inv.after_pollDiff {s : State} {v : Byte} (hinv : Inv s) (hf : s.fsm = .idle)
    (hv : v &&& Config.selMask ≠ s.prev) :
    Inv { s.tick.emit (.rd v) with snap := snapshot v, fsm := .applying, phase := .wa } where
  prevHigh := hinv.prevHigh
  differs _ := by rwa [zext8_snapshot]
  newA _ h := absurd rfl h
  newB _ h := by cases h
  oldA hprev _ := hinv.oldA hprev (.inl hf)
  oldB hprev _ := hinv.oldB hprev (.inl hf)

/-- Each of the six rows keeps the invariant (41_poll_apply.md R85, R94). -/
theorem Inv.after_step {s t : State} (hinv : Inv s) (h : step s = .next t) : Inv t := by
  cases step_eq_next_iff.1 h with
  | reset _ => exact inv_of_idle_of_prev_zero rfl rfl
  | pollSame _ _ _ _ =>
    obtain ⟨hhigh, hdiffers, hnewA, hnewB, holdA, holdB⟩ := hinv
    exact ⟨hhigh, hdiffers, hnewA, hnewB, holdA, holdB⟩
  | pollDiff _ _ hf hv => exact hinv.after_pollDiff hf hv
  | writeA _ _ hf hp => exact hinv.after_writeA hf hp
  | writeB _ _ hf hp => exact hinv.after_writeB hf hp
  | commit v hslot hf hp =>
    obtain ⟨hsync, -⟩ := synchronisedAfterCommit
    exact inv_of_idle_of_synchronised rfl (zext8_high s.snap) (hsync s _ v hinv hf hp hslot h)

theorem Inv.after_stepMany {s : State} (hinv : Inv s) (n : Nat) : Inv (stepMany n s) := by
  induction n with
  | zero => exact hinv
  | succ n ih => exact ih.after_step (step_stepMany n s)

/-! ### Two states that differ in the compare registers -/

/-- The state with other values in the two compare registers. -/
def State.withCompare (a b : Byte) (s : State) : State := { s with ocra := a, ocrb := b }

/-- No row reads a compare register, so a step from a state that differs in them leads to one that does
(20_memory.md R41). -/
theorem step_withCompare {s t : State} (a b : Byte) (h : step s = .next t) :
    ∃ c d, step (s.withCompare a b) = .next (t.withCompare c d) := by
  cases step_eq_next_iff.1 h with
  | reset hslot => exact ⟨_, _, step_reset (s := s.withCompare a b) hslot⟩
  | pollSame v hslot hf hv => exact ⟨a, b, step_poll_same (s := s.withCompare a b) hslot hf hv⟩
  | pollDiff v hslot hf hv => exact ⟨a, b, step_poll_diff (s := s.withCompare a b) hslot hf hv⟩
  | writeA v hslot hf hp => exact ⟨s.divisor .a, b, step_writeA (s := s.withCompare a b) hslot hf hp⟩
  | writeB v hslot hf hp => exact ⟨a, s.divisor .b, step_writeB (s := s.withCompare a b) hslot hf hp⟩
  | commit v hslot hf hp => exact ⟨a, b, step_commit (s := s.withCompare a b) hslot hf hp⟩

theorem stepMany_withCompare (n : Nat) (s : State) (a b : Byte) :
    ∃ c d, stepMany n (s.withCompare a b) = (stepMany n s).withCompare c d := by
  induction n with
  | zero => exact ⟨a, b, rfl⟩
  | succ n ih =>
    obtain ⟨c, d, hrun⟩ := ih
    obtain ⟨e, f, hstep⟩ := step_withCompare c d (step_stepMany n s)
    exact ⟨e, f, stepMany_succ_eq (by rw [hrun, hstep])⟩

/-! ### A stretch without reset -/

/-- The first of the coming operations of a stretch without reset sees the pins, and the others are a stretch without
reset. -/
theorem noResetFor_succ {n : Nat} {s : State} (h : noResetFor (n + 1) s.env = true) :
    ∃ v, s.nextSlot = .pins v ∧ noResetFor n s.env.tail = true := by
  cases henv : s.env with
  | nil => rw [henv] at h; cases h
  | cons e rest =>
    rw [henv] at h
    cases e with
    | reset => cases h
    | pins v => exact ⟨v, nextSlot_of_env henv, h⟩

/-- What every operation of the block keeps holds at the end of a stretch without reset. -/
theorem stepMany_noReset_induction {motive : State → Prop} {n : Nat} {s : State} (hn : noResetFor n s.env = true)
    (hs : motive s)
    (hstep : ∀ (t u : State) (v : Byte), t.nextSlot = .pins v → step t = .next u → motive t → motive u) :
    motive (stepMany n s) := by
  induction n generalizing s with
  | zero => exact hs
  | succ n ih =>
    obtain ⟨v, hslot, hrest⟩ := noResetFor_succ hn
    obtain ⟨t, ht⟩ := step_next s
    rw [stepMany_succ n ht]
    exact ih (by rwa [step_env ht]) (hstep s t v hslot ht hs)

/-! ### The writes alternate -/

/-- The channel an event writes, if it is a write. -/
def writtenChannel : Event → Option Channel
  | .rd _ => none
  | .wr x _ => some x

/-- The channels written, in order; `writeCount_eq_count` ties it to the counts (41_poll_apply.md R95). -/
def writtenChannels (es : List Event) : List Channel := es.filterMap writtenChannel

@[simp] theorem writtenChannels_append (es fs : List Event) :
    writtenChannels (es ++ fs) = writtenChannels es ++ writtenChannels fs :=
  List.filterMap_append

theorem writeCount_eq_count (x : Channel) (es : List Event) : writeCount x es = (writtenChannels es).count x := by
  induction es with
  | nil => rfl
  | cons e es ih =>
    cases e with
    | rd v => exact ih
    | wr y d =>
      simp only [writeCount, writtenChannels, writtenChannel, List.countP_cons, List.filterMap_cons,
        List.count_cons] at ih ⊢
      rw [ih]

/-- `k` whole pairs of writes, and channel A's alone where WRITE_B is still to come (41_poll_apply.md R95). -/
def alternating (k : Nat) (o : Op) : List Channel :=
  (List.replicate k [Channel.a, Channel.b]).flatten ++ if o = .writeB then [Channel.a] else []

/-- An operation's own write, if it has one, goes on with the alternation (41_poll_apply.md R95). -/
theorem alternating_append {o o' : Op} (h : Follows o o') (k : Nat) (s : State) (v : Byte) :
    ∃ m, alternating k o ++ writtenChannels (opEvents s v o) = alternating m o' := by
  cases h with
  | noChange | change | afterWriteA | afterCommit =>
    exact ⟨k, by simp [alternating, opEvents, writtenChannels, writtenChannel]⟩
  | afterWriteB =>
    exact ⟨k + 1, by simp [alternating, opEvents, writtenChannels, writtenChannel, List.replicate_succ']⟩

theorem count_a_alternating (k : Nat) (o : Op) :
    (alternating k o).count .a = k + if o = .writeB then 1 else 0 := by
  simp only [alternating, List.count_append, List.count_flatten, List.map_replicate, List.sum_replicate]
  split <;> simp

theorem count_b_alternating (k : Nat) (o : Op) : (alternating k o).count .b = k := by
  simp only [alternating, List.count_append, List.count_flatten, List.map_replicate, List.sum_replicate]
  split <;> simp

/-- Over a stretch without reset from IDLE the new writes alternate, beginning with channel A's (41_poll_apply.md
R95). -/
theorem writes_alternate {n : Nat} {s : State} (hf : s.fsm = .idle) (hn : noResetFor n s.env = true) :
    ∃ k es, (stepMany n s).events = s.events ++ es ∧
      writtenChannels es = alternating k (selectedOp (stepMany n s)) := by
  refine stepMany_noReset_induction (motive := fun t => ∃ k es, t.events = s.events ++ es ∧
    writtenChannels es = alternating k (selectedOp t)) hn ⟨0, [], by simp, by rw [selectedOp_idle hf]; rfl⟩ ?_
  rintro t u v hslot hstep ⟨k, es, hevents, hwrites⟩
  obtain ⟨m, hm⟩ := alternating_append (step_follows hslot hstep) k t v
  refine ⟨m, es ++ opEvents t v (selectedOp t), ?_, ?_⟩
  · rw [step_events hslot hstep, hevents, List.append_assoc]
  · rw [writtenChannels_append, hwrites, hm]

/-! ### Cycles -/

/-- The cycles of the accesses in an event sequence, each write of OCRB with the COMMIT that belongs to it
(70_reset_and_hazards.md R140). -/
def eventCycles (es : List Event) : Nat :=
  readCount es * Config.tPoll + writeCount .a es * Config.tWa + writeCount .b es * (Config.tWb + Config.tCm)

theorem eventCycles_append (es fs : List Event) : eventCycles (es ++ fs) = eventCycles es + eventCycles fs := by
  simp only [eventCycles, readCount_append, writeCount_append]
  ring

/-- The cycles of a COMMIT whose write of OCRB has been made already (70_reset_and_hazards.md R140). -/
def pendingCycles (o : Op) : Nat := if o = .commit then Config.tCm else 0

/-- An operation's cycles are those of its accesses, but that a COMMIT's are counted at the write of OCRB before it
(70_reset_and_hazards.md R140). -/
theorem opCycles_add_pendingCycles {o o' : Op} (h : Follows o o') (s : State) (v : Byte) :
    opCycles o + pendingCycles o' = eventCycles (opEvents s v o) + pendingCycles o := by
  cases h <;> simp [opCycles, pendingCycles, eventCycles, opEvents, readCount, writeCount]

theorem one_le_opCycles {o : Op} (h : o ≠ .reset) : 1 ≤ opCycles o := by
  cases o with
  | reset => exact absurd rfl h
  | poll | writeA | writeB | commit => exact Nat.le_add_right 1 _

theorem selectedOp_ne_reset (s : State) : selectedOp s ≠ .reset := by
  cases hf : s.fsm with
  | idle => simp [selectedOp, hf]
  | applying => cases hp : s.phase <;> simp [selectedOp, hf, hp]

/-- Each operation of a stretch without reset takes at least a cycle (70_reset_and_hazards.md R140). -/
theorem le_runCycles {n : Nat} {s : State} (hn : noResetFor n s.env = true) : n ≤ runCycles n s := by
  induction n generalizing s with
  | zero => exact Nat.zero_le _
  | succ n ih =>
    obtain ⟨v, hslot, hrest⟩ := noResetFor_succ hn
    obtain ⟨t, ht⟩ := step_next s
    have hop := one_le_opCycles (selectedOp_ne_reset s)
    have htail := ih (s := t) (by rwa [step_env ht])
    rw [runCycles_succ n ht, performedOp_pins hslot]
    omega

/-- The account of a stretch without reset, operation by operation (70_reset_and_hazards.md R140). -/
theorem runCycles_account {n : Nat} {s : State} (hn : noResetFor n s.env = true) :
    runCycles n s + eventCycles s.events + pendingCycles (selectedOp (stepMany n s)) =
      eventCycles (stepMany n s).events + pendingCycles (selectedOp s) := by
  induction n generalizing s with
  | zero => simp
  | succ n ih =>
    obtain ⟨v, hslot, hrest⟩ := noResetFor_succ hn
    obtain ⟨t, ht⟩ := step_next s
    have hop := opCycles_add_pendingCycles (step_follows hslot ht) s v
    have htail := ih (s := t) (by rwa [step_env ht])
    rw [step_events hslot ht, eventCycles_append] at htail
    rw [runCycles_succ n ht, performedOp_pins hslot, stepMany_succ n ht]
    omega

theorem noResetFor_replicate (n : Nat) (v : Byte) (rest : List EnvSlot) :
    noResetFor n (List.replicate n (.pins v) ++ rest) = true := by
  induction n with
  | zero => cases rest <;> rfl
  | succ n ih => exact ih

theorem iterationCycles_same {v prev : Byte} (hv : zext8 (snapshot v) = prev) :
    iterationCycles v prev = Config.tPoll :=
  if_pos hv

theorem iterationCycles_diff {v prev : Byte} (hv : zext8 (snapshot v) ≠ prev) :
    iterationCycles v prev = Config.tPoll + Config.tWa + Config.tWb + Config.tCm :=
  if_neg hv

/-- The account of an iteration's events is its four operations', or its POLL's (70_reset_and_hazards.md R140). -/
theorem eventCycles_iterationEvents (v prev : Byte) :
    eventCycles (iterationEvents v prev) = iterationCycles v prev := by
  by_cases hv : zext8 (snapshot v) = prev
  · rw [iterationEvents_same hv, iterationCycles_same hv]
    simp [eventCycles, readCount, writeCount]
  · rw [iterationEvents_diff hv, iterationCycles_diff hv]
    simp [eventCycles, readCount, writeCount]
    ring

/-- The schedule of one `PIN` item holds its byte on the pins (30_encoding.md R60). -/
theorem traceSlots_pin (v prev : Byte) : ∃ n, traceSlots prev [.pin v] = some (List.replicate n (.pins v)) := by
  by_cases hv : zext8 (snapshot v) = prev
  · exact ⟨1, by simpa [traceSlots] using traceSlots_pin_same hv []⟩
  · exact ⟨4, by simpa [traceSlots] using traceSlots_pin_diff hv []⟩

/-- Driving one `PIN` item from IDLE takes its iteration's cycles (70_reset_and_hazards.md R140). -/
theorem runCycles_pin {s : State} {v : Byte} {n : Nat} (hf : s.fsm = .idle)
    (hslots : traceSlots s.prev [.pin v] = some (List.replicate n (.pins v))) :
    runCycles n { s with env := List.replicate n (.pins v) ++ s.env } = iterationCycles v s.prev := by
  have hrun : stepMany n { s with env := List.replicate n (.pins v) ++ s.env } = afterIteration s v := by
    have htrace := runTrace_of_slots hslots
    rw [List.length_replicate, runTrace_pin hf] at htrace
    exact (Option.some.inj htrace).symm
  have hstart : selectedOp { s with env := List.replicate n (.pins v) ++ s.env } = .poll := selectedOp_idle hf
  have haccount := runCycles_account (s := { s with env := List.replicate n (.pins v) ++ s.env })
    (noResetFor_replicate n v s.env)
  rw [hrun, afterIteration_events, eventCycles_append, eventCycles_iterationEvents,
    selectedOp_idle (afterIteration_idle hf v), hstart] at haccount
  dsimp only at haccount
  omega

/-! ### The statements -/

/-- Settles O42: each of the six rows keeps the invariant. -/
theorem everyStepKeepsTheRegistersInStep : Obligations.EveryStepKeepsTheRegistersInStep :=
  fun _ _ hinv h => hinv.after_step h

/-- Settles O45: the new writes are whole pairs and a last one of channel A in the torn window; the counts follow. -/
theorem writesAlternateWithoutReset : Obligations.WritesAlternateWithoutReset := by
  intro n s hf hn
  obtain ⟨k, es, hevents, hwrites⟩ := writes_alternate hf hn
  simp only [← selectedOp_eq_writeB_iff]
  refine ⟨?_, k, es, hevents, hwrites⟩
  rw [hevents, writeCount_append, writeCount_append, writeCount_eq_count .a es, writeCount_eq_count .b es, hwrites,
    count_a_alternating, count_b_alternating]
  omega

/-- Settles O46: a run from other values of the compare registers ends with other values of them, and no more. -/
theorem compareRegistersAreNeverReadBack : Obligations.CompareRegistersAreNeverReadBack := by
  intro n s a b
  obtain ⟨c, d, hrun⟩ := stepMany_withCompare n s a b
  rw [show stepMany n { s with ocra := a, ocrb := b } = _ from hrun]
  rfl

/-- Settles O38: POLL writes nothing, WRITE_A channel A's register alone, WRITE_B channel B's. -/
theorem tornWindowBetweenTheWrites : Obligations.TornWindowBetweenTheWrites := by
  intro s v w x rest hf hsync hv henv
  have h1 := stepMany_one_of_change hf hv henv
  have h2 := stepMany_two_of_change hf hv henv
  have h3 := stepMany_three_of_change hf hv henv
  obtain ⟨-, holdB⟩ := hsync
  simp only [← codeOf_a_snapshot, ← codeOf_b_snapshot, h3, h2, h1]
  exact ⟨rfl, rfl, rfl, holdB, rfl, rfl⟩

/-- Settles O39: the accesses of the operation that FSM and PHASE name. -/
theorem operationsMakeExactlyTheirAccess : Obligations.OperationsMakeExactlyTheirAccess := by
  intro s t v hslot h
  refine ⟨_, step_events hslot h, fun ho => ?_, fun ho => ?_, fun ho => ?_, fun ho => ?_⟩
  all_goals rw [ho]; rfl

/-- Settles O40: of the five rows without reset only the two writes load a register, with the value of their event. -/
theorem compareRegistersChangeOnlyAtTheirWrite : Obligations.CompareRegistersChangeOnlyAtTheirWrite := by
  intro s t h hreset
  refine ⟨fun x => ?_, fun v hslot => by rw [step_pin h, hslot, pinAfter_pins]⟩
  cases step_eq_next_iff.1 h with
  | reset hslot => exact absurd hslot hreset
  | pollSame | pollDiff | commit => exact .inl (by cases x <;> rfl)
  | writeA => cases x with
    | a => exact .inr rfl
    | b => exact .inl rfl
  | writeB => cases x with
    | a => exact .inl rfl
    | b => exact .inr rfl

/-- Settles O41: the two writes load DIV of a code, and the other rows append no write. -/
theorem writtenWordsAreTableDivisors : Obligations.WrittenWordsAreTableDivisors := by
  intro s t x d h hevents
  cases step_eq_next_iff.1 h with
  | reset => simp at hevents
  | pollSame => simp at hevents
  | pollDiff => simp at hevents
  | commit => simp at hevents
  | writeA =>
    obtain ⟨rfl, rfl⟩ : .a = x ∧ s.divisor .a = d := by simpa using hevents
    obtain ⟨hmem, hhigh⟩ := divCode_mem_table (s.code .a)
    exact ⟨hmem, hhigh, rfl⟩
  | writeB =>
    obtain ⟨rfl, rfl⟩ : .b = x ∧ s.divisor .b = d := by simpa using hevents
    obtain ⟨hmem, hhigh⟩ := divCode_mem_table (s.code .b)
    exact ⟨hmem, hhigh, rfl⟩

/-- Settles O55: each operation's cycles are those of its accesses, along the run and over one iteration. -/
theorem everyOperationTakesACycle : Obligations.EveryOperationTakesACycle := by
  refine ⟨fun n s hn => le_runCycles hn, fun n s hn => ?_, fun s v hf => ?_⟩
  · have haccount := runCycles_account hn
    simp only [eventCycles, pendingCycles] at haccount
    omega
  · obtain ⟨n, hslots⟩ := traceSlots_pin v s.prev
    refine ⟨_, hslots, ?_, fun hv => iterationCycles_same ((zext8_snapshot v).trans hv),
      fun hv => iterationCycles_diff ((zext8_snapshot v).symm ▸ hv)⟩
    rw [List.length_replicate]
    exact runCycles_pin hf hslots

/-- Settles O25: the given values of the reset state. -/
theorem resetStateIsIdleWithZeroCache : Obligations.ResetStateIsIdleWithZeroCache :=
  ⟨rfl, rfl, selectedOp_idle rfl⟩

/-- Settles O43: the reset state is idle with PREV 0. -/
theorem resetHasTheRegistersInStep : Obligations.ResetHasTheRegistersInStep :=
  inv_of_idle_of_prev_zero rfl rfl

/-- Settles O54: the codes by evaluation. -/
theorem fusedStateCodesAreAllUsed : Obligations.FusedStateCodesAreAllUsed := by
  refine ⟨by decide, fun p => ⟨rfl, ?_⟩, rfl, rfl, rfl⟩
  cases p <;> rfl

/-- Settles O56: the RESET row, whose open registers are functions of the draw counter. -/
theorem resetDrawsFollowTheCounter : Obligations.ResetDrawsFollowTheCounter := by
  refine ⟨fun s hslot => ⟨_, step_reset hslot, by simp [hslot], rfl, rfl⟩, fun s r t u hs hr hdraws hst hru => ?_⟩
  obtain rfl := step_unique (step_reset hs) hst
  obtain rfl := step_unique (step_reset hr) hru
  simp [hdraws]

end Sys2Proof.Machine

/-! SUPPORT and PROOFS for the statements about whole runs (30_encoding.md R60, 41_poll_apply.md R93,
70_reset_and_hazards.md R130, R131): how far a held snapshot is from being applied, each item of a stimulus trace as one update, and then the
proofs that settle the statements. -/

namespace Sys2Proof.Machine

/-! ### A held snapshot -/

/-- What PREV holds when the next POLL is reached with no reset between (41_poll_apply.md R83). -/
def cacheAtNextPoll (s : State) : Byte :=
  match s.fsm with
  | .idle => s.prev
  | .applying => zext8 s.snap

theorem cacheAtNextPoll_idle {s : State} (hf : s.fsm = .idle) : cacheAtNextPoll s = s.prev := by
  simp [cacheAtNextPoll, hf]

/-- How many operations pass before the block is idle with PREV `p`, where the pins hold a byte of that snapshot: those
before the next POLL, and an applied change if that POLL finds one. `opsToHold_eq_zero_iff` and `opsToHold_step` say
what it counts. -/
def opsToHold (p : Byte) (s : State) : Nat := opsToPoll s + if cacheAtNextPoll s = p then 0 else 4

theorem opsToHold_le (p : Byte) (s : State) : opsToHold p s ≤ 7 := by
  have hpoll := opsToPoll_le s
  unfold opsToHold
  split <;> omega

theorem opsToHold_eq_zero_iff (p : Byte) (s : State) : opsToHold p s = 0 ↔ s.fsm = .idle ∧ s.prev = p := by
  rw [opsToHold, Nat.add_eq_zero_iff, opsToPoll_eq_zero_iff, selectedOp_eq_poll_iff]
  refine and_congr_right fun hf => ?_
  rw [cacheAtNextPoll_idle hf]
  simp

/-- Inside APPLYING the next POLL comes nearer and what PREV holds then is decided (41_poll_apply.md R91). -/
theorem opsToHold_of_nearer {s t : State} (p : Byte) (hcache : cacheAtNextPoll t = cacheAtNextPoll s)
    (hops : opsToPoll s = opsToPoll t + 1) : opsToHold p t = opsToHold p s - 1 := by
  rw [opsToHold, opsToHold, hcache, hops]
  omega

/-- Each operation that sees the held snapshot brings the block one nearer, and one that has it stays
(41_poll_apply.md R85). -/
theorem opsToHold_step {s t : State} {v : Byte} (hslot : s.nextSlot = .pins v) (h : step s = .next t) :
    opsToHold (v &&& Config.selMask) t = opsToHold (v &&& Config.selMask) s - 1 := by
  cases step_eq_next_iff.1 h with
  | reset hr => rw [hslot] at hr; cases hr
  | pollSame w hw hf hv =>
    obtain rfl := EnvSlot.pins.inj (hslot.symm.trans hw)
    rw [(opsToHold_eq_zero_iff _ s).2 ⟨hf, hv.symm⟩]
    exact (opsToHold_eq_zero_iff _ _).2 ⟨hf, hv.symm⟩
  | pollDiff w hw hf hv =>
    obtain rfl := EnvSlot.pins.inj (hslot.symm.trans hw)
    simp [opsToHold, opsToPoll, cacheAtNextPoll, hf, hv.symm, zext8_snapshot]
  | writeA _ _ hf hp =>
    exact opsToHold_of_nearer _ (by simp [cacheAtNextPoll, hf]) (by simp [opsToPoll, hf, hp])
  | writeB _ _ hf hp =>
    exact opsToHold_of_nearer _ (by simp [cacheAtNextPoll, hf]) (by simp [opsToPoll, hf, hp])
  | commit _ _ hf hp => exact opsToHold_of_nearer _ (by simp [cacheAtNextPoll, hf]) (by simp [opsToPoll, hf, hp])

/-- Along a run in which the pins hold one snapshot the count goes down to 0 and stays there (41_poll_apply.md R93). -/
theorem opsToHold_stepMany {p : Byte} (vs : List Byte) {s : State} {rest : List EnvSlot}
    (hvs : ∀ w ∈ vs, w &&& Config.selMask = p) (henv : s.env = vs.map .pins ++ rest) :
    opsToHold p (stepMany vs.length s) = opsToHold p s - vs.length := by
  induction vs generalizing s with
  | nil => rfl
  | cons v vs ih =>
    obtain ⟨rfl, hrest⟩ := List.forall_mem_cons.1 hvs
    obtain ⟨t, ht⟩ := step_next s
    have htail : t.env = vs.map .pins ++ rest := by rw [step_env ht, henv]; rfl
    rw [List.length_cons, stepMany_succ _ ht, ih hrest htail, opsToHold_step (nextSlot_of_env henv) ht]
    omega

/-! ### Each item of a trace as one update -/

/-- The schedule of a `PIN` item that no reset cuts (30_encoding.md R60). -/
def iterationSlots (v prev : Byte) : List EnvSlot :=
  if zext8 (snapshot v) = prev then [.pins v] else List.replicate 4 (.pins v)

/-- The schedule of a `PIN` item that a reset cuts at position `p` (30_encoding.md R60). -/
def cutSlots (v : Byte) (p : Phase) : List EnvSlot := List.replicate (opsBefore p) (.pins v) ++ [.reset]

/-- The state that a reset between iterations leaves, with the schedule untouched (70_reset_and_hazards.md R120). -/
def afterReset (s : State) : State := takeReset { s with draws := s.draws + 1 }

/-- The state that an applied change to `v`'s snapshot leaves which a reset cuts at position `p`, with the schedule
untouched (70_reset_and_hazards.md R137). -/
def afterCut (s : State) (v : Byte) (p : Phase) : State :=
  takeReset { s with
    pin := v, draws := s.draws + opsBefore p + 1
    events := s.events ++ (iterationEvents v s.prev).take (opsBefore p) }

section Items

variable {s : State} {v : Byte} {rest : List TraceItem}

theorem traceSlots_pin_cons {prev : Byte} (hcut : ∀ p more, rest ≠ .resetAt p :: more) :
    traceSlots prev (.pin v :: rest) =
      (traceSlots (zext8 (snapshot v)) rest).map (iterationSlots v prev ++ ·) := by
  have huncut : traceSlots prev (.pin v :: rest) =
      if changed (snapshot v) prev then
        (traceSlots (zext8 (snapshot v)) rest).map (List.replicate 4 (.pins v) ++ ·)
      else (traceSlots prev rest).map (.pins v :: ·) := by
    cases rest with
    | nil => rfl
    | cons i more => cases i with
      | pin w | reset => rfl
      | resetAt p => exact absurd rfl (hcut p more)
  rw [huncut]
  by_cases hv : zext8 (snapshot v) = prev
  · simp [iterationSlots, hv, (not_changed_iff _ _).2 hv]
  · simp [iterationSlots, hv, (changed_iff _ _).2 hv]

/-- An uncut `PIN` item's schedule runs its iteration (41_poll_apply.md R84). -/
theorem stepMany_iterationSlots (hf : s.fsm = .idle) (v : Byte) (env : List EnvSlot) :
    stepMany (iterationSlots v s.prev).length { s with env := iterationSlots v s.prev ++ env } =
      { afterIteration s v with env := env } := by
  by_cases hv : zext8 (snapshot v) = s.prev
  · rw [afterIteration_same hv, iterationSlots, if_pos hv]
    exact stepMany_one_same (s := { s with env := .pins v :: env }) hf hv rfl
  · rw [afterIteration_diff hv, iterationSlots, if_neg hv]
    exact stepMany_four_diff (s := { s with env := List.replicate 4 (.pins v) ++ env }) hf hv rfl

/-- A `PIN` item that no reset cuts does its iteration's update, whatever items come after (30_encoding.md R60). -/
theorem runTrace_pin_of_uncut (hf : s.fsm = .idle) (hcut : ∀ p more, rest ≠ .resetAt p :: more) :
    runTrace (.pin v :: rest) s = runTrace rest (afterIteration s v) :=
  runTrace_of_first_slots (by rw [traceSlots_pin_cons hcut, afterIteration_prev]) (afterIteration_env s v)
    (stepMany_iterationSlots hf v)

/-- A reset item does the reset's update (30_encoding.md R60). -/
theorem runTrace_reset_cons (s : State) (rest : List TraceItem) :
    runTrace (.reset :: rest) s = runTrace rest (afterReset s) :=
  runTrace_of_first_slots (slots := [.reset]) rfl rfl fun env =>
    stepMany_succ 0 (step_reset (s := { s with env := .reset :: env }) rfl)

/-- Of its state before, a reset keeps PIN, the events, the schedule and the draw counter alone (70_reset_and_hazards.md
R120, logs 3, 4). -/
theorem takeReset_congr {s t : State} (hpin : s.pin = t.pin) (hevents : s.events = t.events) (henv : s.env = t.env)
    (hdraws : s.draws = t.draws) : takeReset s = takeReset t := by
  simp only [takeReset, hpin, hevents, henv, hdraws]

/-- While the pins hold a byte PIN holds it (10_state.md R17). -/
theorem stepMany_pin {n : Nat} {env : List EnvSlot} (hn : n ≠ 0)
    (henv : s.env = List.replicate n (EnvSlot.pins v) ++ env) :
    (stepMany n s).pin = v := by
  obtain ⟨m, rfl⟩ := Nat.exists_eq_succ_of_ne_zero hn
  have hslot : (stepMany m s).nextSlot = .pins v := by
    refine nextSlot_of_env (rest := env) ?_
    rw [stepMany_env, henv, List.replicate_succ', List.append_assoc, List.drop_left' (List.length_replicate ..)]
    rfl
  rw [step_pin (step_stepMany m s), hslot, pinAfter_pins]

theorem opsBefore_ne_zero (p : Phase) : opsBefore p ≠ 0 := by
  cases p <;> decide

/-- A cut item's schedule runs its change up to the cut (70_reset_and_hazards.md R137). -/
theorem stepMany_cutSlots (hf : s.fsm = .idle) (hv : zext8 (snapshot v) ≠ s.prev) (p : Phase) (env : List EnvSlot) :
    stepMany (cutSlots v p).length { s with env := cutSlots v p ++ env } = { afterCut s v p with env := env } := by
  have hassoc : cutSlots v p ++ env = List.replicate (opsBefore p) (.pins v) ++ .reset :: env := by
    rw [cutSlots, List.append_assoc, List.singleton_append]
  have hlength : (cutSlots v p).length = (List.replicate (opsBefore p) (EnvSlot.pins v)).length + 1 := by
    rw [cutSlots, List.length_append, List.length_singleton]
  rw [hassoc, hlength, stepMany_succ_of_reset rfl, List.length_replicate]
  have henv : (stepMany (opsBefore p)
      { s with env := List.replicate (opsBefore p) (.pins v) ++ .reset :: env }).env = .reset :: env := by
    rw [stepMany_env, List.drop_left' (List.length_replicate ..)]
  refine takeReset_congr (t := { s with
    pin := v, draws := s.draws + opsBefore p + 1, env := env
    events := s.events ++ (iterationEvents v s.prev).take (opsBefore p) }) ?_ ?_ ?_ ?_
  · rw [tick_pin, nextSlot_of_env henv, pinAfter_reset]
    exact stepMany_pin (opsBefore_ne_zero p) rfl
  · exact stepMany_opsBefore_events p hf hv rfl
  · rw [tick_env, henv, List.tail_cons]
  · rw [tick_draws, stepMany_draws]

/-- A `PIN` item that a reset cuts does the cut change's update (30_encoding.md R60). -/
theorem runTrace_pin_of_cut (hf : s.fsm = .idle) (hv : zext8 (snapshot v) ≠ s.prev) (p : Phase) :
    runTrace (.pin v :: .resetAt p :: rest) s = runTrace rest (afterCut s v p) := by
  refine runTrace_of_first_slots (slots := cutSlots v p) ?_ rfl (stepMany_cutSlots hf hv p)
  rw [traceSlots, if_pos ((changed_iff _ _).2 hv)]
  simp only [cutSlots, List.append_assoc, List.singleton_append]
  rfl

end Items

/-! ### What a trace's run leaves -/

/-- A trace without a schedule is one that is not legal (30_encoding.md R60, log 10). -/
theorem traceSlots_isSome (prev : Byte) (items : List TraceItem) :
    (traceSlots prev items).isSome = traceLegal prev items := by
  induction prev, items using traceLegal.induct with
  | case1 prev => rfl
  | case2 prev rest ih => simpa [traceSlots, traceLegal] using ih
  | case3 prev p rest => rfl
  | case4 prev v p rest ih =>
    by_cases hv : zext8 (snapshot v) = prev
    · simp [traceSlots, traceLegal, (not_changed_iff _ _).2 hv, ← zext8_snapshot, hv]
    · simp [traceSlots, traceLegal, (changed_iff _ _).2 hv, ← zext8_snapshot, hv, ih]
  | case5 prev v rest hcut ih =>
    rw [traceSlots_pin_cons fun p more h => hcut p more h, Option.isSome_map, zext8_snapshot, ih, traceLegal]
    exact hcut

theorem runTrace_isSome (items : List TraceItem) (s : State) :
    (runTrace items s).isSome = traceLegal s.prev items := by
  rw [runTrace, Option.isSome_map, traceSlots_isSome]

@[simp] theorem readValues_append (es fs : List Event) : readValues (es ++ fs) = readValues es ++ readValues fs :=
  List.filterMap_append

theorem readCount_eq_length (es : List Event) : readCount es = (readValues es).length := by
  induction es with
  | nil => rfl
  | cons e es ih =>
    cases e with
    | rd v => simpa [readCount, readValues] using ih
    | wr x d => simpa [readCount, readValues] using ih

/-- An iteration has one read, POLL's (41_poll_apply.md R84). -/
theorem readValues_iterationEvents (v prev : Byte) : readValues (iterationEvents v prev) = [v] := by
  unfold iterationEvents
  split <;> rfl

/-- The POLL stands before every position at which a reset may cut an applied change (30_encoding.md R60). -/
theorem readValues_take_iterationEvents (v prev : Byte) (p : Phase) :
    readValues ((iterationEvents v prev).take (opsBefore p)) = [v] := by
  unfold iterationEvents
  cases p <;> split <;> rfl

/-- What a trace's run leaves of `s`, seen in the state `t` at its end (30_encoding.md R60). -/
structure Drives (items : List TraceItem) (s t : State) : Prop where
  idle : t.fsm = .idle
  env : t.env = s.env
  reads : readValues t.events = readValues s.events ++ traceBytes items

/-- Where the first items do an update that reads their bytes, the whole trace's reads are those and the others'. -/
theorem Drives.of_first {items rest : List TraceItem} {s u t : State} (h : Drives rest u t) (henv : u.env = s.env)
    {bytes : List Byte} (hreads : readValues u.events = readValues s.events ++ bytes)
    (hbytes : traceBytes items = bytes ++ traceBytes rest) : Drives items s t where
  idle := h.idle
  env := h.env.trans henv
  reads := by rw [h.reads, hreads, hbytes, List.append_assoc]

/-- A run of a trace from IDLE ends in IDLE and reads the trace's byte string, item by item (30_encoding.md R60). -/
theorem drives_of_runTrace {items : List TraceItem} {s t : State} (hf : s.fsm = .idle)
    (hrun : runTrace items s = some t) : Drives items s t := by
  induction hprev : s.prev, items using traceLegal.induct generalizing s with
  | case1 prev =>
    obtain rfl := Option.some.inj hrun
    exact ⟨hf, rfl, (List.append_nil _).symm⟩
  | case2 prev rest ih =>
    rw [runTrace_reset_cons] at hrun
    exact (ih rfl hrun rfl).of_first (bytes := []) rfl (List.append_nil _).symm rfl
  | case3 prev p rest => cases hrun
  | case4 prev v p rest ih =>
    by_cases hv : zext8 (snapshot v) = s.prev
    · simp [runTrace, traceSlots, (not_changed_iff _ _).2 hv] at hrun
    · rw [runTrace_pin_of_cut hf hv] at hrun
      refine (ih rfl hrun rfl).of_first (bytes := [v]) rfl ?_ rfl
      rw [← readValues_take_iterationEvents v s.prev p, ← readValues_append]
      rfl
  | case5 prev v rest hcut ih =>
    rw [runTrace_pin_of_uncut hf fun p more h => hcut p more h] at hrun
    refine (ih (afterIteration_idle hf v) hrun ?_).of_first (bytes := [v]) (afterIteration_env s v) ?_ rfl
    · rw [afterIteration_prev, zext8_snapshot]
    · rw [afterIteration_events, readValues_append, readValues_iterationEvents]

/-! ### Synchronisation along a trace -/

/-- An iteration keeps a synchronised block so (41_poll_apply.md R94). -/
theorem synchronised_afterIteration {s : State} (hsync : synchronised s) (v : Byte) :
    synchronised (afterIteration s v) := by
  by_cases hv : zext8 (snapshot v) = s.prev
  · rw [afterIteration_same hv]
    exact hsync
  · rw [afterIteration_diff hv]
    exact synchronised_afterChange s v

theorem synchronised_foldl_afterIteration (vs : List Byte) {s : State} (hsync : synchronised s) :
    synchronised (vs.foldl afterIteration s) := by
  induction vs generalizing s with
  | nil => exact hsync
  | cons v vs ih => exact ih (synchronised_afterIteration hsync v)

/-- In a synchronised block whose PREV is `v`'s snapshot the registers hold the divisors of `v`'s two codes
(41_poll_apply.md R94). -/
theorem registers_of_synchronised {s : State} {v : Byte} (hsync : synchronised s)
    (hprev : s.prev = zext8 (snapshot v)) :
    s.ocra = div (v.extractLsb' 0 3).toNat ∧ s.ocrb = div (v.extractLsb' 3 3).toNat := by
  obtain ⟨ha, hb⟩ := hsync
  rw [hprev, snapshot_zext8, codeOf_a_snapshot] at ha
  rw [hprev, snapshot_zext8, codeOf_b_snapshot] at hb
  exact ⟨ha, hb⟩

/-! ### The statements -/

/-- Settles O53: the schedule is that of a legal trace, and each item does its update. -/
theorem traceDrivesOneIterationPerPin : Obligations.TraceDrivesOneIterationPerPin := by
  refine fun items s hf => ⟨runTrace_isSome items s, fun t hrun => ?_⟩
  obtain ⟨hidle, henv, hreads⟩ := drives_of_runTrace hf hrun
  refine ⟨hidle, henv, hreads, ?_⟩
  rw [readCount_eq_length, readCount_eq_length, hreads, List.length_append]

/-- Settles O57: within seven operations PREV holds the snapshot, and the invariant gives the registers. -/
theorem heldSnapshotIsApplied : Obligations.HeldSnapshotIsApplied := by
  intro s v vs rest hlength hvs henv
  have hheld : ∀ w ∈ vs, w &&& Config.selMask = v &&& Config.selMask := fun w hw => and_selMask_congr (hvs w hw)
  have hzero : opsToHold (v &&& Config.selMask) (stepMany vs.length s) = 0 := by
    have hle := opsToHold_le (v &&& Config.selMask) s
    rw [opsToHold_stepMany vs hheld henv]
    omega
  obtain ⟨hidle, hprev⟩ := (opsToHold_eq_zero_iff _ _).1 hzero
  refine ⟨hidle, hprev, fun hinv hv => ?_⟩
  have hsync := (hinv.after_stepMany vs.length).synchronised_of_idle hidle (hprev ▸ hv)
  exact registers_of_synchronised hsync (hprev.trans (zext8_snapshot v).symm)

/-- Settles O52: every iteration leaves the block synchronised, the last with the settled byte in PREV. That PREV's bits
7:6 are 0 at the start is not needed. -/
theorem bouncingPinsSettle : Obligations.BouncingPinsSettle := by
  intro s vs w hf hsync _
  have hrun : runTrace (vs.map .pin ++ [.pin w]) s = some (afterIteration (vs.foldl afterIteration s) w) := by
    simpa using runTrace_pins (vs ++ [w]) hf
  have hprev := afterIteration_prev (vs.foldl afterIteration s) w
  have hsettled := synchronised_afterIteration (synchronised_foldl_afterIteration vs hsync) w
  exact ⟨_, hrun, afterIteration_idle (foldl_afterIteration_idle vs hf) w, hprev.trans (zext8_snapshot w),
    registers_of_synchronised hsettled hprev⟩

end Sys2Proof.Machine
